-- ==== Sys2Proof/Config.lean ====
section
/-! DEFINITION. What an implementation fixes. Every size of the hardware is fixed by the spec (R6, R7) and
stands as a number in the types of the state. -/
namespace Sys2Proof.Config

/-- R7, R236: `CYCLES_PER_STEP`, the spec's one open parameter: the clock cycles the `n`-th engine step
takes. It has no body, so nothing can be proved of its value; no rule of the spec depends on it, and no
definition of the model does (log 6). -/
opaque cyclesPerStep (n : Nat) : Nat

end Sys2Proof.Config
end

