-- ==== Sys2Proof/Word.lean ====
section
/-! DEFINITION. The unsigned bit-vector types of the hardware (R6, R8): every quantity is unsigned, and
`BitVec` addition is the addition modulo `2^32` or `2^64` of R9. -/
namespace Sys2Proof

/-- A u8: a message byte, a chunk byte, a digest byte. -/
abbrev Byte := BitVec 8
/-- A u32: a working register, a round variable, a schedule word. -/
abbrev Word := BitVec 32
/-- A u64: the message length in bits (R27). -/
abbrev Length := BitVec 64
/-- A command word on the `cmd` port (R81). -/
abbrev CmdWord := BitVec 10
/-- The pin levels `{rst, out_valid, out_ready}` at an edge (R94). -/
abbrev PinWord := BitVec 3
/-- The selector `{phase, pstage, s, x}` of the engine's next micro-operation (R92). -/
abbrev SelWord := BitVec 9

end Sys2Proof
end

