-- ==== Sys2Proof/Syntax.lean ====
section
/-! DEFINITION. The instructions: one constructor per row of spec/opcode_table.json, and the three
kinds of word the rows are encoded in. -/
namespace Sys2Proof

/-- The host commands (format `CMD`), the host's pin events (format `PIN`) and the engine's
micro-operations (format `SEQ`). -/
inductive Instr where
  /-- R130: begin a new message. -/
  | init
  /-- R131: append one byte to the message. -/
  | data (b : Byte)
  /-- R132: end of message. -/
  | final
  /-- R191: the host takes the offered digest byte. -/
  | take
  /-- R230: synchronous reset. -/
  | reset
  /-- R150: append the marker byte. -/
  | padmark
  /-- R151: append one zero byte. -/
  | padzero
  /-- R152: append one byte of the length field. -/
  | padlen
  /-- R160: load one schedule word from the chunk. -/
  | wload
  /-- R161: derive one schedule word. -/
  | wexp
  /-- R170: copy the working registers into the round variables. -/
  | binit
  /-- R171: a round of stage 0. -/
  | rnd0
  /-- R172: a round of stage 1. -/
  | rnd1
  /-- R173: a round of stage 2. -/
  | rnd2
  /-- R174: a round of stage 3. -/
  | rnd3
  /-- R177: add the round variables into the working registers. -/
  | fold
  deriving DecidableEq, Repr

/-- A word of one of the three formats of the opcode table. -/
inductive TableWord where
  /-- A command word (R81). -/
  | cmd (w : CmdWord)
  /-- The host's pin levels (R94). -/
  | pin (w : PinWord)
  /-- A selector word (R92). -/
  | seq (w : SelWord)
  deriving DecidableEq, Repr

end Sys2Proof
end

