-- ==== Sys2Proof/WellFormed.lean ====
section
/-! DEFINITION. Which instructions and which words are well-formed.
The only operand of the table is DATA's byte, typed as a u8, and every u8 is legal (R131): no term of
`Instr` is ill-formed. The checks are on words. -/
namespace Sys2Proof

/-- Every instruction is well-formed: R131, "Every byte value is legal". -/
abbrev Instr.WellFormed (_ : Instr) : Prop := True

/-- R83, R84: the legal command words: INIT and FINAL with a zero operand, DATA with any. -/
def cmdWordWF (w : CmdWord) : Bool :=
  w == 0x000#10 || w.extractLsb' 8 2 == 1#2 || w == 0x200#10

/-- R94: the pin levels that select an event: `rst`, or both of `out_valid` and `out_ready`. -/
def pinWordWF (w : PinWord) : Bool :=
  w.getLsbD 2 || (w.getLsbD 1 && w.getLsbD 0)

/-- R92: the selectors that some `t` in `0..79` gives in a busy phase: `phase` is PAD to FOLD,
`pstage` is not the unused code 3, and `x = 0` (so `t < 16`) goes with `s = 0` only. -/
def selWordWF (w : SelWord) : Bool :=
  let phase := w.extractLsb' 5 4
  let pstage := w.extractLsb' 3 2
  let s := w.extractLsb' 1 2
  (2#4 ≤ phase && phase ≤ 6#4) && pstage != 3#2 && (w.getLsbD 0 || s == 0#2)

/-- The well-formed words of the three formats. -/
def TableWord.wf : TableWord → Bool
  | .cmd w => cmdWordWF w
  | .pin w => pinWordWF w
  | .seq w => selWordWF w

end Sys2Proof
end

