-- ==== Sys2Proof/Decode.lean ====
section
/-! DEFINITION. Decoding: from the words of the opcode table to instructions, total, rejecting by name;
and the encoder. -/
namespace Sys2Proof

/-- Why a word is no instruction. -/
inductive Reject where
  /-- R84: `0x001..0x0FF`, INIT with a non-zero operand. -/
  | initOperand
  /-- R84: `0x201..0x2FF`, FINAL with a non-zero operand. -/
  | finalOperand
  /-- R84: `0x300..0x3FF`, `op = 3`. -/
  | reservedOp
  /-- R94: the pin levels select nothing. -/
  | noPinEvent
  /-- R92: the selector names no micro-operation. -/
  | noMicroOp
  deriving DecidableEq, Repr

/-- R81: `op`, bits 9:8 of a command word. -/
def cmdOp (w : CmdWord) : BitVec 2 := w.extractLsb' 8 2

/-- R81, R82: `operand`, bits 7:0 of a command word, as it stands. -/
def cmdOperand (w : CmdWord) : Byte := w.extractLsb' 0 8

/-- R83, R84: the decode of a command word. -/
def decodeCmd (w : CmdWord) : Except Reject Instr :=
  if cmdOp w = 0#2 then
    if cmdOperand w = 0#8 then .ok .init else .error .initOperand
  else if cmdOp w = 1#2 then .ok (.data (cmdOperand w))
  else if cmdOp w = 2#2 then
    if cmdOperand w = 0#8 then .ok .final else .error .finalOperand
  else .error .reservedOp

/-- A row of the opcode table without operands: the word `w` names `instr` when
`w AND mask = pattern`. -/
structure Row (n : Nat) where
  pattern : BitVec n
  mask : BitVec n
  instr : Instr
  deriving DecidableEq, Repr

/-- The row's test. -/
def Row.accepts {n : Nat} (r : Row n) (w : BitVec n) : Bool := w &&& r.mask == r.pattern

/-- R94: the rows of the `PIN` format. -/
def pinRows : List (Row 3) :=
  [⟨0x3#3, 0x7#3, .take⟩, ⟨0x4#3, 0x4#3, .reset⟩]

/-- R92: the rows of the `SEQ` format. -/
def selRows : List (Row 9) :=
  [⟨0x040#9, 0x1F8#9, .padmark⟩, ⟨0x048#9, 0x1F8#9, .padzero⟩, ⟨0x050#9, 0x1F8#9, .padlen⟩,
   ⟨0x060#9, 0x1E1#9, .wload⟩, ⟨0x061#9, 0x1E1#9, .wexp⟩, ⟨0x080#9, 0x1E0#9, .binit⟩,
   ⟨0x0A0#9, 0x1E6#9, .rnd0⟩, ⟨0x0A2#9, 0x1E6#9, .rnd1⟩, ⟨0x0A4#9, 0x1E6#9, .rnd2⟩,
   ⟨0x0A6#9, 0x1E6#9, .rnd3⟩, ⟨0x0C0#9, 0x1E0#9, .fold⟩]

/-- The instruction of the first row that accepts the word. -/
def findRow {n : Nat} (rows : List (Row n)) (w : BitVec n) : Option Instr :=
  (rows.find? fun r => r.accepts w).map Row.instr

/-- R94: the host event a set of pin levels selects. -/
def decodePin (w : PinWord) : Except Reject Instr :=
  match findRow pinRows w with
  | some i => .ok i
  | none => .error .noPinEvent

/-- R92: the micro-operation a selector selects. -/
def decodeSel (w : SelWord) : Except Reject Instr :=
  match findRow selRows w with
  | some i => .ok i
  | none => .error .noMicroOp

/-- The decoder of the three formats. -/
def decode : TableWord → Except Reject Instr
  | .cmd w => decodeCmd w
  | .pin w => decodePin w
  | .seq w => decodeSel w

/-- The instruction a word decodes to, without the reason where it decodes to none. -/
def decode? (tw : TableWord) : Option Instr :=
  match decode tw with
  | .ok i => some i
  | .error _ => none

/-- The encoder, from the tables of R83, R92 and R94. Bits the selection does not depend on are 0,
but where the table says what `t` implies (`x = 1` in stages 1 to 3) they have that value (log 11). -/
def encode : Instr → TableWord
  | .init => .cmd 0x000#10
  | .data b => .cmd (1#2 ++ b)
  | .final => .cmd 0x200#10
  | .take => .pin 0x3#3
  | .reset => .pin 0x4#3
  | .padmark => .seq 0x040#9
  | .padzero => .seq 0x048#9
  | .padlen => .seq 0x050#9
  | .wload => .seq 0x060#9
  | .wexp => .seq 0x061#9
  | .binit => .seq 0x080#9
  | .rnd0 => .seq 0x0A0#9
  | .rnd1 => .seq 0x0A3#9
  | .rnd2 => .seq 0x0A5#9
  | .rnd3 => .seq 0x0A7#9
  | .fold => .seq 0x0C0#9

/-- The word of the opcode table that `nbits` bits `w` stand for. The three formats are 3, 9 and 10
bits wide; in whole bytes the last two are both 16 bits, and then a word is the command word it
legally is, else a selector: no selector that names a micro-operation is a legal command word
(log 10). -/
def tableWord (nbits w : Nat) : Option TableWord :=
  if nbits ≤ 8 then
    if w < 2 ^ 3 then some (.pin (BitVec.ofNat 3 w)) else none
  else if nbits = 9 then
    if w < 2 ^ 9 then some (.seq (BitVec.ofNat 9 w)) else none
  else if nbits = 10 then
    if w < 2 ^ 10 then some (.cmd (BitVec.ofNat 10 w)) else none
  else if w < 2 ^ 10 ∧ cmdWordWF (BitVec.ofNat 10 w) then some (.cmd (BitVec.ofNat 10 w))
  else if w < 2 ^ 9 then some (.seq (BitVec.ofNat 9 w))
  else none

/-- The instruction the decoder reads from a word numbered as spec/opcode_table.json numbers it. -/
def decodeTableWord (nbits w : Nat) : Option Instr :=
  match tableWord nbits w with
  | some tw => decode? tw
  | none => none

end Sys2Proof
end

