-- ==== Sys2Proof/Machine/Constants.lean ====
section
/-! DEFINITION. The read-only constant tables (R35, R36, R178). -/
namespace Sys2Proof.Machine

/-- R35: `IV[0..4]`. -/
def IV : Vector Word 5 := #v[0x67452301#32, 0xEFCDAB89#32, 0x98BADCFE#32, 0x10325476#32, 0xC3D2E1F0#32]

/-- R36: `K[0..3]`, indexed by the stage. -/
def K : Vector Word 4 := #v[0x5A827999#32, 0x6ED9EBA1#32, 0x8F1BBCDC#32, 0xCA62C1D6#32]

end Sys2Proof.Machine
end

