-- ==== Sys2Proof/Machine/State.lean ====
section
/-! DEFINITION. The state of the machine as plain data (R20), and the ways a step can stop. -/
namespace Sys2Proof.Machine

/-- R30: the sequencer's phase, the program counter analogue. -/
inductive Phase where
  | idle | absorb | pad | sched | binit | round | fold | out | fault
  deriving DecidableEq, Repr

/-- R31: which part of the padding is being produced. -/
inductive PStage where
  | mark | zero | len
  deriving DecidableEq, Repr

/-- R32: the phase FOLD enters. -/
inductive Ret where
  | absorb | pad | out
  deriving DecidableEq, Repr

/-- R32, R177: `phase <- ret`. -/
def Ret.phase : Ret → Phase
  | .absorb => .absorb
  | .pad => .pad
  | .out => .out

/-- R80: the levels of the input ports at a rising edge of `clk`. -/
structure Pins where
  rst : Bool
  cmdValid : Bool
  cmd : CmdWord
  outReady : Bool
  deriving DecidableEq, Repr

/-- The levels of a host that does nothing (log 4). -/
def Pins.quiet : Pins := { rst := false, cmdValid := false, cmd := 0, outReady := false }

/-- What the host drives: a set of levels, and whether it keeps them until a command transfers or a
byte is taken (`hold`, R233 item 1 and R96) or changes them after one step (R235: it may withdraw or
change a command before the transfer). -/
structure Drive where
  pins : Pins
  hold : Bool
  deriving DecidableEq, Repr

/-- R20: the complete state of the engine; then what the model holds of the HOST agent (R13). -/
structure State where
  /-- R21: working registers `h[0..4]`. -/
  h : Vector Word 5
  /-- R22: round variables. -/
  a : Word
  b : Word
  c : Word
  d : Word
  e : Word
  /-- R24: message schedule `w[0..79]`. -/
  w : Vector Word 80
  /-- R25: chunk buffer `chunk[0..63]`. -/
  chunk : Vector Byte 64
  /-- R27: bit length of the message so far. -/
  ml : Length
  /-- R26: number of bytes of `chunk` written, 0..64 (log 3). -/
  fill : Fin 65
  /-- R28: schedule index or round index, 0..79 (log 3). -/
  t : Fin 80
  /-- R29: index of the offered digest byte, 0..19 (log 3). -/
  oidx : Fin 20
  /-- R30. -/
  phase : Phase
  /-- R31. -/
  pstage : PStage
  /-- R32. -/
  ret : Ret
  /-- R33: sticky fault flag. -/
  err : Bool
  /-- R33: cause of the first fault. -/
  errCode : BitVec 2
  /-- The model's own (log 4): what the host drives on the input ports, the head first. -/
  inputs : List Drive
  /-- The model's own (log 5): the digest bytes the host has received, the first one first. -/
  delivered : List Byte
  deriving DecidableEq, Repr

/-- Why the machine stops without a next state. No rule of the spec stops the machine, and no state
reachable from reset meets one of these; they stand where the spec defines no step (R92, I7). The
protocol faults of R202 are NEXT states with `err` set, not these. All are safe. -/
inductive Fault where
  /-- Raised by each micro-operation when the state's selector does not select it: R93, "No other
  transition exists". `step` never asks for one then. Safe. -/
  | notSelected
  /-- Raised by DATA, PADMARK, PADZERO and PADLEN when `fill = 64`: CHUNK has no byte 64 (R50, R59).
  Safe. -/
  | chunkIndex
  /-- Raised by PADLEN when `fill < 56`: the length field has no byte `fill - 56` (R152). Safe. -/
  | lengthByteIndex
  deriving DecidableEq, Repr

/-- Why the model gives an instruction no meaning. -/
inductive Refusal where
  /-- Raised by an arm of `exec` that has no meaning; no arm raises it. Safe. -/
  | notModelled (mnemonic : String)
  deriving DecidableEq, Repr

/-- The three outcomes of a step of this machine. -/
abbrev Result := Host.Outcome State Fault Refusal

/-- R40: the machine right after reset. `phase`, `err` and `err_code` have the spec's values; the spec
calls every other element unspecified, and the values here are the model's (log 1). The host drives
nothing and has received nothing (logs 4 and 5). -/
def State.reset : State where
  h := Vector.replicate 5 0
  a := 0
  b := 0
  c := 0
  d := 0
  e := 0
  w := Vector.replicate 80 0
  chunk := Vector.replicate 64 0
  ml := 0
  fill := 0
  t := 0
  oidx := 0
  phase := .idle
  pstage := .mark
  ret := .absorb
  err := false
  errCode := 0
  inputs := []
  delivered := []

end Sys2Proof.Machine
end

