-- ==== Sys2Proof/Machine/Operands.lean ====
section
/-! DEFINITION. The primitives of R10 and R11, the boolean functions of R115, and every operand form:
how a step reads its sources from the state. -/
namespace Sys2Proof.Machine

/-- R10, R122: left rotation of a 32-bit word. -/
def rotl (x : Word) (n : Nat) : Word := x.rotateLeft n

/-- R11: the word of four bytes, the first the most significant. -/
def be32 (b0 b1 b2 b3 : Byte) : Word := b0 ++ b1 ++ b2 ++ b3

/-- R11: byte `j` of `be32_bytes(x)`, `x[31-8j : 24-8j]`. -/
def byte32 (x : Word) (j : Fin 4) : Byte := x.extractLsb' (24 - 8 * j.val) 8

/-- R11: `be32_bytes`, the inverse of `be32`. -/
def be32Bytes (x : Word) : List Byte := [byte32 x 0, byte32 x 1, byte32 x 2, byte32 x 3]

/-- R11: byte `j` of `be64_bytes(x)`, `x[63-8j : 56-8j]`. -/
def byte64 (x : Length) (j : Fin 8) : Byte := x.extractLsb' (56 - 8 * j.val) 8

/-- R11: `be64_bytes`. -/
def be64Bytes (x : Length) : List Byte :=
  [byte64 x 0, byte64 x 1, byte64 x 2, byte64 x 3, byte64 x 4, byte64 x 5, byte64 x 6, byte64 x 7]

/-- R115: stage 0. -/
def fSel (b c d : Word) : Word := (b &&& c) ||| (~~~b &&& d)

/-- R115: stages 1 and 3. -/
def fXor (b c d : Word) : Word := b ^^^ c ^^^ d

/-- R115: stage 2. -/
def fMaj (b c d : Word) : Word := (b &&& c) ||| (b &&& d) ||| (c &&& d)

/-- R90: the stage `s = t div 20`. -/
def stage (t : Fin 80) : Fin 4 :=
  ⟨t.val / 20, by omega⟩

/-- R115: `f(s, b, c, d)`. -/
def stageFn (s : Fin 4) : Word → Word → Word → Word :=
  match s with
  | 0 => fSel
  | 1 => fXor
  | 2 => fMaj
  | 3 => fXor

/-- The five round variables `(a, b, c, d, e)` together (R22). -/
structure RoundVars where
  a : Word
  b : Word
  c : Word
  d : Word
  e : Word
  deriving DecidableEq, Repr

/-- R170: `(h[0], h[1], h[2], h[3], h[4])` as round variables. -/
def varsOf (h : Vector Word 5) : RoundVars := ⟨h[0], h[1], h[2], h[3], h[4]⟩

/-- The round variables of a state. -/
def State.vars (s : State) : RoundVars := ⟨s.a, s.b, s.c, s.d, s.e⟩

/-- R53, R160: `MemRead(CHUNK + 4i, 4)`. -/
def chunkWord (chunk : Vector Byte 64) (i : Nat) (hi : i < 16) : Word :=
  be32 chunk[4 * i] chunk[4 * i + 1] chunk[4 * i + 2] chunk[4 * i + 3]

/-- R161: `rotl(w[i-3] XOR w[i-8] XOR w[i-14] XOR w[i-16], 1)`, for `i >= 16`. -/
def expandWord (w : Vector Word 80) (i : Fin 80) : Word :=
  rotl (w[i.val - 3] ^^^ w[i.val - 8] ^^^ w[i.val - 14] ^^^ w[i.val - 16]) 1

/-- R116, R175: one round with boolean function `f`, constant `k` and schedule word `wt`. The sum is the
spec's, grouped from the right at its end, as R116 and R121 allow. -/
def roundWith (f : Word → Word → Word → Word) (k wt : Word) (v : RoundVars) : RoundVars :=
  ⟨rotl v.a 5 + f v.b v.c v.d + v.e + (k + wt), v.a, rotl v.b 30, v.c, v.d⟩

/-- R177: the five sums of FOLD, each modulo `2^32`. -/
def foldVars (h : Vector Word 5) (v : RoundVars) : Vector Word 5 :=
  #v[h[0] + v.a, h[1] + v.b, h[2] + v.c, h[3] + v.d, h[4] + v.e]

/-- R88, R190: byte `i` of the digest: byte `i mod 4` of `be32_bytes(h[i div 4])`. -/
def digestByte (h : Vector Word 5) (i : Fin 20) : Byte :=
  byte32 (h[i.val / 4]'(by omega)) ⟨i.val % 4, Nat.mod_lt _ (by decide)⟩

/-- R92: the label of a phase in the selector. -/
def Phase.code : Phase → BitVec 4
  | .idle => 0
  | .absorb => 1
  | .pad => 2
  | .sched => 3
  | .binit => 4
  | .round => 5
  | .fold => 6
  | .out => 7
  | .fault => 8

/-- R92: the label of a padding stage in the selector. -/
def PStage.code : PStage → BitVec 2
  | .mark => 0
  | .zero => 1
  | .len => 2

/-- R92: `SEQ = {phase, pstage, s, x}`, `x = 1` when `t >= 16`. -/
def selector (s : State) : SelWord :=
  s.phase.code ++ s.pstage.code ++ BitVec.ofNat 2 (stage s.t).val ++ BitVec.ofBool (decide (16 ≤ s.t.val))

/-- The levels the host drives now: those of the head of `inputs`, all low when it drives nothing. -/
def State.pins (s : State) : Pins :=
  match s.inputs with
  | [] => .quiet
  | d :: _ => d.pins

end Sys2Proof.Machine
end

