-- ==== Sys2Proof/Machine/Flags.lean ====
section
/-! DEFINITION. The status outputs (R34): functions of the state, not registers. The engine has no
arithmetic flag. -/
namespace Sys2Proof.Machine

/-- R34: `cmd_ready`. -/
def Phase.cmdReady : Phase → Bool
  | .idle | .absorb | .out | .fault => true
  | .pad | .sched | .binit | .round | .fold => false

/-- R34: `cmd_ready` of a state. -/
def cmdReady (s : State) : Bool := s.phase.cmdReady

/-- R34: `busy`. -/
def busy (s : State) : Bool := !cmdReady s

/-- R34: `out_valid`. -/
def outValid (s : State) : Bool := s.phase == .out

/-- R190, R194: `out_data`, the offered digest byte, `0x00` when none is offered. -/
def outData (s : State) : Byte := if outValid s then digestByte s.h s.oidx else 0x00#8

/-- R80: the levels of the output ports. -/
structure OutPins where
  cmdReady : Bool
  outValid : Bool
  outData : Byte
  err : Bool
  errCode : BitVec 2
  deriving DecidableEq, Repr

/-- R80, R34: what the output ports show. -/
def outputs (s : State) : OutPins := ⟨cmdReady s, outValid s, outData s, s.err, s.errCode⟩

/-- R94: `PIN = {rst, out_valid, out_ready}`. -/
def pinWord (s : State) : PinWord :=
  BitVec.ofBool s.pins.rst ++ BitVec.ofBool (outValid s) ++ BitVec.ofBool s.pins.outReady

end Sys2Proof.Machine
end

