-- ==== Sys2Proof/Machine/Ops.lean ====
section
/-! DEFINITION. The operations the steps are made of: fault entry and the exit from it, accepting a
command, writing the chunk, starting a compression, advancing `t`. -/
namespace Sys2Proof.Machine

/-- One step after another within one atomic step (R210): the second acts on the state the first left. -/
def andThen (r : Result) (k : State → Result) : Result :=
  match r with
  | .next s => k s
  | .fault f => .fault f
  | .refused q => .refused q

/-- R206: fault entry, `raise Fault(code)`. -/
def raiseFault (code : BitVec 2) (s : State) : State :=
  { s with err := true, errCode := code, phase := .fault }

/-- R202: `ILLEGAL_CMD`. -/
def illegalCmd : BitVec 2 := 1
/-- R202: `SEQ_DATA`. -/
def seqData : BitVec 2 := 2
/-- R202: `SEQ_FINAL`. -/
def seqFinal : BitVec 2 := 3

/-- R230, R208: what reset writes; the only exit from FAULT. -/
def leaveToIdle (s : State) : State :=
  { s with phase := .idle, err := false, errCode := 0 }

/-- A command on the port: while the engine is busy it waits and has no effect (R135, log 9); in FAULT it
is discarded (R134); otherwise `k` gives its effect. -/
def acceptCommand (k : State → Result) (s : State) : Result :=
  match s.phase with
  | .pad | .sched | .binit | .round | .fold => .next s
  | .fault => .next s
  | .idle | .absorb | .out => k s

/-- R131, R153: `ret <- r; t <- 0; phase <- SCHED`. -/
def startCompression (r : Ret) (s : State) : State :=
  { s with ret := r, t := 0, phase := .sched }

/-- R131, R153: `chunk[fill] <- v; fill <- fill + 1`, and when that fills the chunk, its compression
starts, with `r` the phase to come back to. -/
def pushByte (v : Byte) (r : Ret) (s : State) : Result :=
  if h : s.fill.val < 64 then
    let s1 := { s with chunk := s.chunk.set s.fill.val v h, fill := ⟨s.fill.val + 1, Nat.succ_lt_succ h⟩ }
    .next (if s.fill.val + 1 = 64 then startCompression r s1 else s1)
  else .fault .chunkIndex

/-- R162, R175: `t <- t + 1` but at `t = 79`. -/
def nextT (s : State) : Fin 80 := if h : s.t.val < 79 then ⟨s.t.val + 1, Nat.succ_lt_succ h⟩ else s.t

/-- R162, R175: `if t = 79: phase <- last, else t <- t + 1`. -/
def advanceT (last : Phase) (s : State) : State :=
  { s with t := nextT s, phase := if s.t.val < 79 then s.phase else last }

/-- `(a, b, c, d, e) <- v`. -/
def State.setVars (v : RoundVars) (s : State) : State :=
  { s with a := v.a, b := v.b, c := v.c, d := v.d, e := v.e }

/-- R175: a round with boolean function `f` and constant `k`. -/
def roundStep (f : Word → Word → Word → Word) (k : Word) (s : State) : State :=
  advanceT .fold (s.setVars (roundWith f k s.w[s.t.val] s.vars))

/-- R191: the offered byte goes to the host. -/
def deliver (s : State) : State := { s with delivered := s.delivered ++ [outData s] }

/-- R191: `oidx <- oidx + 1` but at `oidx = 19`. -/
def nextOidx (s : State) : Fin 20 := if h : s.oidx.val < 19 then ⟨s.oidx.val + 1, Nat.succ_lt_succ h⟩ else s.oidx

/-- R191: `if oidx = 19: phase <- IDLE, else oidx <- oidx + 1`. -/
def advanceOidx (s : State) : State :=
  { s with oidx := nextOidx s, phase := if s.oidx.val < 19 then s.phase else .idle }

/-- What the host drives after an edge: a held entry stays until it has acted, any other gives way to the
next (log 4). -/
def inputsAfter (acted : Bool) (inputs : List Drive) : List Drive :=
  match inputs with
  | [] => []
  | d :: ds => if d.hold && !acted then d :: ds else ds

/-- The edge has passed for the host. -/
def passInput (acted : Bool) (s : State) : State := { s with inputs := inputsAfter acted s.inputs }

end Sys2Proof.Machine
end

