-- ==== Sys2Proof/Machine/Command.lean ====
section
/-! DEFINITION. The host commands (spec/41_commands.md). -/
namespace Sys2Proof.Machine

/-- R130: INIT. -/
def execInit (s : State) : Result :=
  acceptCommand (fun s => .next { s with h := IV, ml := 0, fill := 0, phase := .absorb }) s

/-- R131, R137: DATA. -/
def execData (b : Byte) (s : State) : Result :=
  acceptCommand (fun s =>
    if s.phase = .absorb then pushByte b .absorb { s with ml := s.ml + 8 }
    else .next (raiseFault seqData s)) s

/-- R132, R137: FINAL. -/
def execFinal (s : State) : Result :=
  acceptCommand (fun s =>
    if s.phase = .absorb then .next { s with pstage := .mark, phase := .pad }
    else .next (raiseFault seqFinal s)) s

/-- R133: the transfer of a reserved command word. -/
def execIllegalWord (s : State) : Result :=
  acceptCommand (fun s => .next (raiseFault illegalCmd s)) s

end Sys2Proof.Machine
end

