-- ==== Sys2Proof/Machine/Padder.lean ====
section
/-! DEFINITION. The message padder (spec/42_padder.md). -/
namespace Sys2Proof.Machine

/-- R153: the stage after a padder step. -/
def nextPStage (s : State) : PStage :=
  if s.pstage = .len then .len
  else if s.fill.val + 1 = 56 then .len else .zero

/-- R153: the phase a compression started by a padder step comes back to. -/
def padRet (s : State) : Ret := if s.pstage = .len then .out else .pad

/-- R153: the common step, with the byte `v`. -/
def padStep (v : Byte) (s : State) : Result :=
  pushByte v (padRet s) { s with pstage := nextPStage s }

/-- R150: PADMARK. -/
def execPadmark (s : State) : Result :=
  if s.phase = .pad ∧ s.pstage = .mark then padStep 0x80#8 s else .fault .notSelected

/-- R151: PADZERO. -/
def execPadzero (s : State) : Result :=
  if s.phase = .pad ∧ s.pstage = .zero then padStep 0x00#8 s else .fault .notSelected

/-- R152: PADLEN. -/
def execPadlen (s : State) : Result :=
  if s.phase = .pad ∧ s.pstage = .len then
    if s.fill.val < 56 then .fault .lengthByteIndex
    else if h : s.fill.val - 56 < 8 then padStep (byte64 s.ml ⟨s.fill.val - 56, h⟩) s
    else .fault .chunkIndex
  else .fault .notSelected

end Sys2Proof.Machine
end

