-- ==== Sys2Proof/Machine/Pin.lean ====
section
/-! DEFINITION. The host's pin events: TAKE (spec/45_serializer.md) and RESET
(spec/70_reset_and_hazards.md). -/
namespace Sys2Proof.Machine

/-- R191: TAKE; `out_ready = 1` when `out_valid = 0` does nothing. -/
def execTake (s : State) : Result :=
  if outValid s then .next (advanceOidx (deliver s)) else .next s

/-- R230: RESET, in every phase. -/
def execReset (s : State) : Result := .next (leaveToIdle s)

end Sys2Proof.Machine
end

