-- ==== Sys2Proof/Machine/Schedule.lean ====
section
/-! DEFINITION. The message schedule (spec/43_schedule.md). -/
namespace Sys2Proof.Machine

/-- R160: WLOAD. -/
def execWload (s : State) : Result :=
  if h : s.phase = .sched ∧ s.t.val < 16 then
    .next (advanceT .binit { s with w := s.w.set s.t.val (chunkWord s.chunk s.t.val h.2) })
  else .fault .notSelected

/-- R161: WEXP. -/
def execWexp (s : State) : Result :=
  if s.phase = .sched ∧ 16 ≤ s.t.val then
    .next (advanceT .binit { s with w := s.w.set s.t.val (expandWord s.w s.t) })
  else .fault .notSelected

end Sys2Proof.Machine
end

