-- ==== Sys2Proof/Machine/Updater.lean ====
section
/-! DEFINITION. The five-register state updater (spec/44_updater.md). -/
namespace Sys2Proof.Machine

/-- R170: BINIT. -/
def execBinit (s : State) : Result :=
  if s.phase = .binit then .next { s.setVars (varsOf s.h) with t := 0, phase := .round }
  else .fault .notSelected

/-- R171: RND0. -/
def execRnd0 (s : State) : Result :=
  if s.phase = .round ∧ stage s.t = 0 then .next (roundStep fSel K[0] s) else .fault .notSelected

/-- R172: RND1. -/
def execRnd1 (s : State) : Result :=
  if s.phase = .round ∧ stage s.t = 1 then .next (roundStep fXor K[1] s) else .fault .notSelected

/-- R173: RND2. -/
def execRnd2 (s : State) : Result :=
  if s.phase = .round ∧ stage s.t = 2 then .next (roundStep fMaj K[2] s) else .fault .notSelected

/-- R174: RND3. -/
def execRnd3 (s : State) : Result :=
  if s.phase = .round ∧ stage s.t = 3 then .next (roundStep fXor K[3] s) else .fault .notSelected

/-- R177: `if ret = OUT: oidx <- 0`. -/
def foldOidx (s : State) : Fin 20 := if s.ret = .out then 0 else s.oidx

/-- R177: FOLD. -/
def execFold (s : State) : Result :=
  if s.phase = .fold then
    .next { s with h := foldVars s.h s.vars, fill := 0, oidx := foldOidx s, phase := s.ret.phase }
  else .fault .notSelected

end Sys2Proof.Machine
end

