-- ==== Sys2Proof/Machine/Dispatch.lean ====
section
/-! DEFINITION. The meaning of every instruction, one arm per constructor. -/
namespace Sys2Proof.Machine

def exec (i : Instr) (s : State) : Host.Outcome State Fault Refusal :=
  match i with
  | .init => Sys2Proof.Machine.execInit s
  | .data b => Sys2Proof.Machine.execData b s
  | .final => Sys2Proof.Machine.execFinal s
  | .take => Sys2Proof.Machine.execTake s
  | .reset => Sys2Proof.Machine.execReset s
  | .padmark => Sys2Proof.Machine.execPadmark s
  | .padzero => Sys2Proof.Machine.execPadzero s
  | .padlen => Sys2Proof.Machine.execPadlen s
  | .wload => Sys2Proof.Machine.execWload s
  | .wexp => Sys2Proof.Machine.execWexp s
  | .binit => Sys2Proof.Machine.execBinit s
  | .rnd0 => Sys2Proof.Machine.execRnd0 s
  | .rnd1 => Sys2Proof.Machine.execRnd1 s
  | .rnd2 => Sys2Proof.Machine.execRnd2 s
  | .rnd3 => Sys2Proof.Machine.execRnd3 s
  | .fold => Sys2Proof.Machine.execFold s

end Sys2Proof.Machine
end

