-- ==== Sys2Proof/Machine/Edge.lean ====
section
/-! DEFINITION. What one step does: which instruction is fetched (a pin event, a command word on the
port, or the micro-operation the selector selects) and its execution; and the placing of a table word
where the next step fetches it. -/
namespace Sys2Proof.Machine

/-- R92: the engine's next micro-operation, none in the phases in which it waits for the host. -/
def microOp (s : State) : Option Instr := decode? (.seq (selector s))

/-- R94: the event the pin levels select. -/
def pinEvent (s : State) : Option Instr := decode? (.pin (pinWord s))

/-- R133, R135, R209: a command word transfers. -/
def transfer (word : CmdWord) (s : State) : Result :=
  match decode? (.cmd word) with
  | some i => exec i s
  | none => execIllegalWord s

/-- R80: the engine waits for the host. A take, a command transfer, both (R210: the take first), or
neither. -/
def hostEdge (s : State) : Result :=
  let took := decide (pinEvent s = some .take)
  let s1 := passInput (took || s.pins.cmdValid) s
  let afterTake := if took then exec .take s1 else .next s1
  if s.pins.cmdValid then andThen afterTake (transfer s.pins.cmd) else afterTake

/-- One step: reset wins over every other event (R210); in a busy phase the engine executes its
micro-operation (R13); otherwise the host may act. -/
def edge (s : State) : Result :=
  if pinEvent s = some .reset then exec .reset (passInput true s)
  else
    match microOp s with
    | some i => exec i (passInput false s)
    | none => hostEdge s

/-- The host drives these levels for one step, before what it drives already. -/
def driveOnce (p : Pins) (s : State) : State := { s with inputs := ⟨p, false⟩ :: s.inputs }

/-- A state whose selector selects the given micro-operation: the part of the state the selection (and
the index the micro-operation writes at) depends on, changed where it has to be (log 7). -/
def selectMicroOp (i : Instr) (s : State) : State :=
  let padFill : Fin 65 := if s.fill.val < 64 then s.fill else 0
  let lenFill : Fin 65 :=
    if 56 ≤ s.fill.val ∧ s.fill.val < 64 then s.fill else 56
  match i with
  | .padmark => { s with phase := .pad, pstage := .mark, fill := padFill }
  | .padzero => { s with phase := .pad, pstage := .zero, fill := padFill }
  | .padlen => { s with phase := .pad, pstage := .len, fill := lenFill }
  | .wload => { s with phase := .sched, t := if s.t.val < 16 then s.t else 0 }
  | .wexp => { s with phase := .sched, t := if s.t.val < 16 then 16 else s.t }
  | .binit => { s with phase := .binit }
  | .rnd0 => { s with phase := .round, t := if stage s.t = 0 then s.t else 0 }
  | .rnd1 => { s with phase := .round, t := if stage s.t = 1 then s.t else 20 }
  | .rnd2 => { s with phase := .round, t := if stage s.t = 2 then s.t else 40 }
  | .rnd3 => { s with phase := .round, t := if stage s.t = 3 then s.t else 60 }
  | .fold => { s with phase := .fold }
  | .init | .data _ | .final | .take | .reset => s

/-- The table word stored where the next step fetches it: a command word on the command port of an
engine that is ready for one, pin levels on the pins (a digest byte offered where the word says
`out_valid = 1`), a selector in the sequencer of an engine that is not being reset (log 7). -/
def placeWord (tw : TableWord) (s : State) : State :=
  match tw with
  | .cmd w =>
    driveOnce { rst := false, cmdValid := true, cmd := w, outReady := false }
      { s with phase := if s.phase.cmdReady then s.phase else .idle }
  | .pin w =>
    driveOnce { rst := w.getLsbD 2, cmdValid := false, cmd := 0, outReady := w.getLsbD 0 }
      { s with phase := if w.getLsbD 1 && !w.getLsbD 2 then .out else s.phase }
  | .seq w =>
    let s1 := if s.pins.rst then driveOnce .quiet s else s
    match decode? (.seq w) with
    | some i => selectMicroOp i s1
    | none => s1

/-- The word of spec/opcode_table.json, of `nbits` bits, stored where the next step fetches it. -/
def placeTableWord (s : State) (nbits w : Nat) : State :=
  match tableWord nbits w with
  | some tw => placeWord tw s
  | none => s

end Sys2Proof.Machine
end

