-- ==== Sys2Proof/Machine/Step.lean ====
section
/-! DEFINITION. The step of the machine. -/
namespace Sys2Proof.Machine

/-- One step of the machine: one host event or one engine micro-operation (R12, R13). -/
def step (s : State) : Host.Outcome State Fault Refusal := Sys2Proof.Machine.edge s

/-- `s` with the table's word stored where `step` fetches its next instruction. -/
def State.withFetchWord (s : State) (nbits w : Nat) : State := Sys2Proof.Machine.placeTableWord s nbits w

end Sys2Proof.Machine
end

