-- ==== Sys2Proof/Machine/Assembler.lean ====
section
/-! DEFINITION. The host's notation (R96, R97): what the host drives for each line of a command sequence,
and the pseudo-instructions' expansions. -/
namespace Sys2Proof.Machine

/-- R96: one host action a line. -/
inductive Line where
  | reset
  | init
  | data (b : Byte)
  | final
  | take
  /-- `RAW w`: transfer the word as it stands. -/
  | raw (w : CmdWord)
  deriving DecidableEq, Repr

/-- A host that holds a command word until it transfers (R96, R233). -/
def commandEntry (w : CmdWord) : Drive := ⟨⟨false, true, w, false⟩, true⟩

/-- A host that holds `out_ready` until a byte is taken (R96). -/
def takeEntry : Drive := ⟨⟨false, false, 0, true⟩, true⟩

/-- A host that asserts `rst` for one edge (R96). DESIGN CHOICE (log 17): it does so at the coming step, in a
busy phase too, where R96 leaves open whether a RESET line waits until the engine is no longer busy. -/
def resetEntry : Drive := ⟨⟨true, false, 0, false⟩, false⟩

/-- R96: what the host drives for a line; a command or a take waits until the engine allows it, a reset does
not wait (log 17). -/
def Line.drive : Line → Drive
  | .reset => resetEntry
  | .init => commandEntry 0x000#10
  | .data b => commandEntry (1#2 ++ b)
  | .final => commandEntry 0x200#10
  | .take => takeEntry
  | .raw w => commandEntry w

/-- R97: `BYTES v0 v1 ...`; and `MSG`, for the bytes of its string. -/
def bytesLines (m : List Byte) : List Line := m.map .data

/-- R97: the bytes of an ASCII string. -/
def asciiBytes (text : String) : List Byte := text.toList.map fun c => BitVec.ofNat 8 c.toNat

/-- R97: `MSG "text"`. -/
def msgLines (text : String) : List Line := bytesLines (asciiBytes text)

/-- R97: `REP n, DATA v`. -/
def repLines (n : Nat) (v : Byte) : List Line := List.replicate n (.data v)

/-- R97: `TAKE20`. -/
def take20Lines : List Line := List.replicate 20 .take

/-- R125: `INIT; DATA m[0]; ...; DATA m[L-1]; FINAL`. -/
def messageLines (m : List Byte) : List Line := .init :: bytesLines m ++ [.final]

/-- R97: `DIGEST`, one whole call, for the bytes of its string. -/
def digestLines (m : List Byte) : List Line := messageLines m ++ take20Lines

/-- What the host drives for a sequence of lines. -/
def script (lines : List Line) : List Drive := lines.map Line.drive

end Sys2Proof.Machine
end

