-- ==== Sys2Proof/Machine/Digest.lean ====
section
/-! DEFINITION. The digest as a pure function of the message (spec/40_digest_function.md), apart from the
machine: what the step-by-step machine must agree with (R125). -/
namespace Sys2Proof.Machine

/-- R111: `ml = (8 × L) mod 2^64`. -/
def messageLength (m : List Byte) : Length := BitVec.ofNat 64 (8 * m.length)

/-- R85: the number of zero bytes, `z = (55 - L) mod 64`. -/
def zeroCount (l : Nat) : Nat := (55 + 64 - l % 64) % 64

/-- R111: `pad(m)`. -/
def pad (m : List Byte) : List Byte :=
  m ++ [0x80#8] ++ List.replicate (zeroCount m.length) 0x00#8 ++ be64Bytes (messageLength m)

/-- R85: the number of chunks, `N = (L + 8) div 64 + 1`. -/
def chunkCount (l : Nat) : Nat := (l + 8) / 64 + 1

/-- R112: chunk `n` of a padded message, bytes `64n .. 64n+63`. -/
def chunkOf (p : List Byte) (n : Nat) : Vector Byte 64 :=
  Vector.ofFn fun i => p.getD (64 * n + i.val) 0

/-- R113: the schedule word at index `i`, from the chunk and the words before it. -/
def scheduleWord (chunk : Vector Byte 64) (w : Vector Word 80)
    (i : Fin 80) : Word :=
  if h : i.val < 16 then chunkWord chunk i.val h else expandWord w i

/-- R113: the schedule with its words below `n` built. -/
def scheduleUpTo (chunk : Vector Byte 64) : Nat → Vector Word 80
  | 0 => Vector.replicate 80 0
  | n + 1 =>
    let w := scheduleUpTo chunk n
    if h : n < 80 then w.set n (scheduleWord chunk w ⟨n, h⟩) else w

/-- R113: `schedule(chunk)`. -/
def schedule (chunk : Vector Byte 64) : Vector Word 80 :=
  scheduleUpTo chunk 80

/-- R116: `round(t, (a,b,c,d,e), w)`. -/
def roundFn (w : Vector Word 80) (t : Fin 80) (v : RoundVars) : RoundVars :=
  roundWith (stageFn (stage t)) K[(stage t).val] w[t.val] v

/-- R117: the round variables after the rounds below `n`. -/
def roundsUpTo (w : Vector Word 80) (v : RoundVars) : Nat → RoundVars
  | 0 => v
  | n + 1 => if h : n < 80 then roundFn w ⟨n, h⟩ (roundsUpTo w v n) else roundsUpTo w v n

/-- R117: `compress(H, chunk)`. -/
def compress (h : Vector Word 5) (chunk : Vector Byte 64) : Vector Word 5 :=
  foldVars h (roundsUpTo (schedule chunk) (varsOf h) 80)

/-- R118: the working registers after the first `n` chunks of a padded message. -/
def hashChunks (p : List Byte) : Nat → Vector Word 5
  | 0 => IV
  | n + 1 => compress (hashChunks p n) (chunkOf p n)

/-- R118: the final `H`. -/
def finalHash (m : List Byte) : Vector Word 5 := hashChunks (pad m) (chunkCount m.length)

/-- R88, R118: the digest, `h0` first and most significant byte first. -/
def digest (m : List Byte) : List Byte :=
  let h := finalHash m
  be32Bytes h[0] ++ be32Bytes h[1] ++ be32Bytes h[2] ++ be32Bytes h[3] ++ be32Bytes h[4]

end Sys2Proof.Machine
end

