-- ==== Sys2Proof/Safety.lean ====
section
/-! DEFINITION. The terms claims are stated in: the invariants of R39, the access matrix of R38, what is
live in each phase (R41), and the step counts of one message (R125). -/
namespace Sys2Proof.Safety

open Sys2Proof.Machine

/-- R39, R27: `ml[8:3]`, the number of message bytes in the current chunk. -/
def messageFill (s : State) : Nat := (s.ml.extractLsb' 3 6).toNat

/-- The phases of a compression (R39: those in which `fill = 64`). -/
def Compressing (p : Phase) : Bool := p == .sched || p == .binit || p == .round || p == .fold

/-- R33: `err = 1` exactly in FAULT, `err_code = 0` exactly when `err = 0`. -/
abbrev ErrAgrees (s : State) : Prop :=
  (s.err = true ↔ s.phase = .fault) ∧ (s.errCode = 0 ↔ s.err = false)

/-- R27: `ml[2:0] = 0` once INIT has set `ml`. -/
abbrev LengthWhole (s : State) : Prop :=
  s.phase ≠ .idle → s.phase ≠ .fault → s.ml.extractLsb' 0 3 = 0#3

/-- R39, ABSORB. -/
abbrev AbsorbFill (s : State) : Prop := s.phase = .absorb → s.fill.val = messageFill s

/-- R39, PAD. -/
abbrev PadFill (s : State) : Prop :=
  s.phase = .pad → s.fill.val ≤ 63 ∧ (s.pstage = .len → 56 ≤ s.fill.val) ∧
    (s.pstage = .zero → s.fill.val ≠ 56) ∧ (s.pstage = .mark → s.fill.val = messageFill s)

/-- R39, R26: `fill = 64` during a compression; with what R131 and R153 leave for the phase after it. -/
abbrev CompressFill (s : State) : Prop :=
  Compressing s.phase = true → s.fill.val = 64 ∧ (s.ret = .absorb → messageFill s = 0) ∧
    (s.ret = .pad → s.pstage = .zero) ∧ (s.ret = .out → s.pstage = .len)

/-- The control invariant of R39. -/
abbrev CtlInv (s : State) : Prop :=
  ErrAgrees s ∧ LengthWhole s ∧ AbsorbFill s ∧ PadFill s ∧ CompressFill s

/-- R39, R162: in SCHED the schedule words below `t` are those of this chunk. -/
abbrev SchedBuilt (s : State) : Prop :=
  s.phase = .sched → ∀ i : Fin 80, i.val < s.t.val → s.w[i] = (schedule s.chunk)[i]

/-- R39, R116: from BINIT on the schedule is complete; in ROUND and FOLD the round variables are the
result of the rounds below `t`, of all 80. -/
abbrev RoundsDone (s : State) : Prop :=
  (s.phase = .binit → s.w = schedule s.chunk) ∧
  (s.phase = .round → s.w = schedule s.chunk ∧ s.vars = roundsUpTo (schedule s.chunk) (varsOf s.h) s.t.val) ∧
  (s.phase = .fold → s.vars = roundsUpTo (schedule s.chunk) (varsOf s.h) 80)

/-- The data invariant of R39: what has been written is what R113 and R116 say. -/
abbrev DataInv (s : State) : Prop := SchedBuilt s ∧ RoundsDone s

/-- The columns of the access matrix R38. -/
inductive Elem where
  | h | vars | w | chunk | ml | fill | t | oidx | phase | pstage | ret | err
  deriving DecidableEq, Repr

/-- R38: the elements the row of each instruction marks `w`. -/
def mayWrite : Instr → List Elem
  | .init => [.h, .ml, .fill, .phase]
  | .data _ => [.chunk, .ml, .fill, .t, .phase, .ret]
  | .final => [.phase, .pstage]
  | .take => [.oidx, .phase]
  | .reset => [.phase, .err]
  | .padmark | .padzero => [.chunk, .fill, .t, .phase, .pstage, .ret]
  | .padlen => [.chunk, .fill, .t, .phase, .ret]
  | .wload | .wexp => [.w, .t, .phase]
  | .binit => [.vars, .t, .phase]
  | .rnd0 | .rnd1 | .rnd2 | .rnd3 => [.vars, .t, .phase]
  | .fold => [.h, .fill, .oidx, .phase]

/-- The host commands that carry R137's fault. -/
def Sequenced : Instr → Bool
  | .data _ | .final => true
  | _ => false

/-- R38 with R137: the elements an instruction may write from a state: those of its row, those of the row
"faulting command" where it is out of sequence. -/
def writesFrom (i : Instr) (s : State) : List Elem :=
  if Sequenced i && (s.phase == .idle || s.phase == .out) then [.phase, .err] else mayWrite i

/-- Only the elements listed differ between `s` and `t`; of `chunk` only the byte at `fill`, of `w` only
the word at `t` (R50). -/
def ChangesOnly (es : List Elem) (s t : State) : Prop :=
  (.h ∉ es → t.h = s.h) ∧ (.vars ∉ es → t.vars = s.vars) ∧
  (∀ k : Fin 80, .w ∉ es ∨ k ≠ s.t → t.w[k] = s.w[k]) ∧
  (∀ k : Fin 64, .chunk ∉ es ∨ k.val ≠ s.fill.val → t.chunk[k] = s.chunk[k]) ∧
  (.ml ∉ es → t.ml = s.ml) ∧ (.fill ∉ es → t.fill = s.fill) ∧ (.t ∉ es → t.t = s.t) ∧
  (.oidx ∉ es → t.oidx = s.oidx) ∧ (.phase ∉ es → t.phase = s.phase) ∧
  (.pstage ∉ es → t.pstage = s.pstage) ∧ (.ret ∉ es → t.ret = s.ret) ∧
  (.err ∉ es → t.err = s.err ∧ t.errCode = s.errCode)

/-- What a later step can read of a state, by phase (R39, R41): two states that agree on it cannot be told
apart at the ports. -/
def LiveEq (s1 s2 : State) : Prop :=
  s1.phase = s2.phase ∧ s1.err = s2.err ∧ s1.errCode = s2.errCode ∧ s1.inputs = s2.inputs ∧
  s1.delivered = s2.delivered ∧
  match s1.phase with
  | .idle | .fault => True
  | .absorb => s1.h = s2.h ∧ s1.ml = s2.ml ∧ s1.fill = s2.fill ∧
      ∀ k : Fin 64, k.val < s1.fill.val → s1.chunk[k] = s2.chunk[k]
  | .pad => s1.h = s2.h ∧ s1.ml = s2.ml ∧ s1.fill = s2.fill ∧ s1.pstage = s2.pstage ∧
      ∀ k : Fin 64, k.val < s1.fill.val → s1.chunk[k] = s2.chunk[k]
  | .sched => s1.h = s2.h ∧ s1.ml = s2.ml ∧ s1.ret = s2.ret ∧ (s1.ret = .pad → s1.pstage = s2.pstage) ∧
      s1.chunk = s2.chunk ∧ s1.t = s2.t ∧ ∀ k : Fin 80, k.val < s1.t.val → s1.w[k] = s2.w[k]
  | .binit => s1.h = s2.h ∧ s1.ml = s2.ml ∧ s1.ret = s2.ret ∧ (s1.ret = .pad → s1.pstage = s2.pstage) ∧
      s1.w = s2.w
  | .round => s1.h = s2.h ∧ s1.ml = s2.ml ∧ s1.ret = s2.ret ∧ (s1.ret = .pad → s1.pstage = s2.pstage) ∧
      s1.w = s2.w ∧ s1.vars = s2.vars ∧ s1.t = s2.t
  | .fold => s1.h = s2.h ∧ s1.ml = s2.ml ∧ s1.ret = s2.ret ∧ (s1.ret = .pad → s1.pstage = s2.pstage) ∧
      s1.vars = s2.vars
  | .out => s1.h = s2.h ∧ s1.oidx = s2.oidx

/-- The host never drives `rst` in what it is going to drive. -/
abbrev NoReset (s : State) : Prop := ∀ d ∈ s.inputs, d.pins.rst = false

/-- R125: the host steps and engine steps from INIT to phase OUT, for a message of `l` bytes: `l + 2`
commands, `1 + z + 8` padder steps, 162 steps for each chunk. -/
def stepsToOut (l : Nat) : Nat := (l + 2) + (1 + zeroCount l + 8) + 162 * chunkCount l

/-- The steps from INIT to the start of the compression of chunk `n`: INIT, one step for each byte of the
chunks `0 .. n`, FINAL if it has come, and 162 steps for each earlier chunk. -/
def stepsToChunk (l n : Nat) : Nat := 1 + 64 * (n + 1) + (if l < 64 * (n + 1) then 1 else 0) + 162 * n

/-- R154: the steps from the entry to PAD to phase OUT, when `fill` bytes are in the chunk: `1 + z + 8`
padder steps and one compression, two when the length does not fit. -/
def padSteps (fill : Nat) : Nat := (1 + zeroCount fill + 8) + 162 * (if fill ≤ 55 then 1 else 2)

/-- R175: the state after a round with the function's value `F` and constant `k`. -/
def AfterRound (F k : Word) (s t : State) : Prop :=
  let u : State := { s with
    a := rotl s.a 5 + F + s.e + k + s.w[s.t.val], b := s.a, c := rotl s.b 30, d := s.c, e := s.d }
  (s.t.val = 79 → t = { u with phase := .fold }) ∧
  (∀ h : s.t.val < 79, t = { u with t := ⟨s.t.val + 1, Nat.succ_lt_succ h⟩ })

end Sys2Proof.Safety
end

