-- ==== Sys2Proof/Certificates/Slice0/Obligations.lean ====
section
/-! DEFINITION. The statements for the provers. Each docstring names the rule of the spec it states. -/

open Sys2Proof Sys2Proof.Machine Sys2Proof.Safety

/-! ### Encoding -/

/-- Words written out from the tables of R83, R92 and R94 and the decode vectors of spec/95 section 5.1. -/
def Obligations.SpecWordsDecode : Prop :=
  decode (.cmd 0x000#10) = .ok .init ∧ decode (.cmd 0x161#10) = .ok (.data 0x61#8) ∧
  decode (.cmd 0x1FF#10) = .ok (.data 0xFF#8) ∧ decode (.cmd 0x200#10) = .ok .final ∧
  decode (.cmd 0x0FF#10) = .error .initOperand ∧ decode (.cmd 0x280#10) = .error .finalOperand ∧
  decode (.cmd 0x3A5#10) = .error .reservedOp ∧
  decode (.pin 0b011#3) = .ok .take ∧ decode (.pin 0b111#3) = .ok .reset ∧
  decode (.seq 0b001000000#9) = .ok .padmark ∧ decode (.seq 0b001101001#9) = .ok .wexp ∧
  decode (.seq 0b010110101#9) = .ok .rnd2 ∧ decode (.seq 0b011011111#9) = .ok .fold

/-- R83: the opcode map of the command word, and that a word which matches no row is rejected. -/
def Obligations.CommandOpcodeMap : Prop :=
  ∀ w : CmdWord,
    (decode (.cmd w) = .ok .init ↔ w &&& 0x3FF#10 = 0x000#10) ∧
    (∀ b, decode (.cmd w) = .ok (.data b) ↔ (w &&& 0x300#10 = 0x100#10 ∧ b = w.extractLsb' 0 8)) ∧
    (decode (.cmd w) = .ok .final ↔ w &&& 0x3FF#10 = 0x200#10) ∧
    ((∃ r, decode (.cmd w) = .error r) ↔
      (w &&& 0x3FF#10 ≠ 0x000#10 ∧ w &&& 0x300#10 ≠ 0x100#10 ∧ w &&& 0x3FF#10 ≠ 0x200#10))

/-- R92: the eleven rows of the selector table, for every selector word. -/
def Obligations.SelectorRows : Prop :=
  ∀ w : SelWord,
    (decode (.seq w) = .ok .padmark ↔ w &&& 0x1F8#9 = 0x040#9) ∧
    (decode (.seq w) = .ok .padzero ↔ w &&& 0x1F8#9 = 0x048#9) ∧
    (decode (.seq w) = .ok .padlen ↔ w &&& 0x1F8#9 = 0x050#9) ∧
    (decode (.seq w) = .ok .wload ↔ w &&& 0x1E1#9 = 0x060#9) ∧
    (decode (.seq w) = .ok .wexp ↔ w &&& 0x1E1#9 = 0x061#9) ∧
    (decode (.seq w) = .ok .binit ↔ w &&& 0x1E0#9 = 0x080#9) ∧
    (decode (.seq w) = .ok .rnd0 ↔ w &&& 0x1E6#9 = 0x0A0#9) ∧
    (decode (.seq w) = .ok .rnd1 ↔ w &&& 0x1E6#9 = 0x0A2#9) ∧
    (decode (.seq w) = .ok .rnd2 ↔ w &&& 0x1E6#9 = 0x0A4#9) ∧
    (decode (.seq w) = .ok .rnd3 ↔ w &&& 0x1E6#9 = 0x0A6#9) ∧
    (decode (.seq w) = .ok .fold ↔ w &&& 0x1E0#9 = 0x0C0#9)

/-- R92: which micro-operation the engine executes next, by `phase`, `pstage` and `t`; none in the phases
in which it waits for the host. -/
def Obligations.SelectorSelectsMicroOp : Prop :=
  ∀ s : State,
    (s.phase = .pad → s.pstage = .mark → microOp s = some .padmark) ∧
    (s.phase = .pad → s.pstage = .zero → microOp s = some .padzero) ∧
    (s.phase = .pad → s.pstage = .len → microOp s = some .padlen) ∧
    (s.phase = .sched → s.t.val ≤ 15 → microOp s = some .wload) ∧
    (s.phase = .sched → 16 ≤ s.t.val → microOp s = some .wexp) ∧
    (s.phase = .binit → microOp s = some .binit) ∧
    (s.phase = .round → s.t.val ≤ 19 → microOp s = some .rnd0) ∧
    (s.phase = .round → 20 ≤ s.t.val → s.t.val ≤ 39 → microOp s = some .rnd1) ∧
    (s.phase = .round → 40 ≤ s.t.val → s.t.val ≤ 59 → microOp s = some .rnd2) ∧
    (s.phase = .round → 60 ≤ s.t.val → microOp s = some .rnd3) ∧
    (s.phase = .fold → microOp s = some .fold) ∧
    (s.phase = .idle ∨ s.phase = .absorb ∨ s.phase = .out ∨ s.phase = .fault → microOp s = none)

/-- R94: the host events that are selected by pin levels. -/
def Obligations.PinEventSelection : Prop :=
  (∀ w : PinWord, (decode (.pin w) = .ok .take ↔ w &&& 0x7#3 = 0x3#3) ∧
    (decode (.pin w) = .ok .reset ↔ w &&& 0x4#3 = 0x4#3) ∧
    ((∃ r, decode (.pin w) = .error r) ↔ (w &&& 0x4#3 = 0#3 ∧ w &&& 0x3#3 ≠ 0x3#3))) ∧
  (∀ s : State, (pinEvent s = some .reset ↔ s.pins.rst = true) ∧
    (pinEvent s = some .take ↔ s.pins.rst = false ∧ s.phase = .out ∧ s.pins.outReady = true) ∧
    (pinEvent s = none ↔ s.pins.rst = false ∧ ¬(s.phase = .out ∧ s.pins.outReady = true)))

/-- R83, R92, R94: decoding what the encoder writes gives the instruction back, for every instruction and
every operand; and a command word is the encoding of the instruction it decodes to. The value the encoder
gives bits a row does not depend on is the model's (log 11). -/
def Obligations.DecodeOfEncode : Prop :=
  (∀ i : Instr, decode (encode i) = .ok i) ∧
  (∀ (w : CmdWord) (i : Instr), decode (.cmd w) = .ok i → encode i = .cmd w) ∧
  (∀ r ∈ selRows, ∃ w : SelWord, encode r.instr = .seq w ∧ w &&& r.mask = r.pattern)

/-! ### Arithmetic -/

/-- R122 (with R10): the rotation laws. -/
def Obligations.RotationLaws : Prop :=
  (∀ x : Word, rotl x 0 = x) ∧
  (∀ (x : Word) (a b : Nat), rotl (rotl x a) b = rotl x ((a + b) % 32)) ∧
  (∀ (x : Word) (n i : Nat), n < 32 → i < 32 → (rotl x n).getLsbD ((i + n) % 32) = x.getLsbD i) ∧
  (∀ (x : Word) (n : Nat), 0 < n → n < 32 → rotl x (32 - n) = x.rotateRight n) ∧
  (∀ (x y : Word) (n : Nat), rotl (x ^^^ y) n = rotl x n ^^^ rotl y n ∧ rotl (x &&& y) n = rotl x n &&& rotl y n ∧
    rotl (x ||| y) n = rotl x n ||| rotl y n ∧ rotl (~~~x) n = ~~~(rotl x n))

/-- R123: the big-endian round trip, both ways. -/
def Obligations.BigEndianRoundTrip : Prop :=
  (∀ x : Word, be32 (byte32 x 0) (byte32 x 1) (byte32 x 2) (byte32 x 3) = x) ∧
  (∀ b0 b1 b2 b3 : Byte, be32Bytes (be32 b0 b1 b2 b3) = [b0, b1, b2, b3])

/-- R115: the three boolean functions bit by bit, and which stage uses which. -/
def Obligations.BooleanFunctions : Prop :=
  (∀ (b c d : Word) (n : Nat), n < 32 →
    ((fSel b c d).getLsbD n = if b.getLsbD n then c.getLsbD n else d.getLsbD n) ∧
    ((fXor b c d).getLsbD n = ((b.getLsbD n ^^ c.getLsbD n) ^^ d.getLsbD n)) ∧
    ((fMaj b c d).getLsbD n = ((b.getLsbD n && c.getLsbD n) || (b.getLsbD n && d.getLsbD n) || (c.getLsbD n && d.getLsbD n)))) ∧
  stageFn 0 = fSel ∧ stageFn 1 = fXor ∧ stageFn 2 = fMaj ∧ stageFn 3 = fXor

/-! ### Host commands -/

/-- R130: INIT in IDLE, ABSORB and OUT, its whole effect; a second INIT changes nothing. -/
def Obligations.InitBeginsMessage : Prop :=
  ∀ s : State, s.phase = .idle ∨ s.phase = .absorb ∨ s.phase = .out →
    let t : State := { s with
      h := #v[0x67452301#32, 0xEFCDAB89#32, 0x98BADCFE#32, 0x10325476#32, 0xC3D2E1F0#32]
      ml := 0, fill := 0, phase := .absorb }
    exec .init s = .next t ∧ outValid t = false ∧ cmdReady t = true ∧ exec .init t = .next t

/-- R131: DATA in ABSORB, its whole effect, and its fault in IDLE and OUT. -/
def Obligations.DataAppendsByte : Prop :=
  (∀ (b : Byte) (s : State) (hf : s.fill.val < 64), s.phase = .absorb →
    let t : State := { s with
      chunk := s.chunk.set s.fill.val b hf, ml := s.ml + 8, fill := ⟨s.fill.val + 1, Nat.succ_lt_succ hf⟩ }
    (s.fill.val + 1 < 64 → exec (.data b) s = .next t) ∧
    (s.fill.val + 1 = 64 → exec (.data b) s = .next { t with ret := .absorb, t := 0, phase := .sched })) ∧
  (∀ (b : Byte) (s : State), s.phase = .idle ∨ s.phase = .out →
    exec (.data b) s = .next { s with err := true, errCode := 2, phase := .fault })

/-- R132: FINAL in ABSORB, its whole effect in its own step, and its fault in IDLE and OUT. -/
def Obligations.FinalStartsPadding : Prop :=
  (∀ s : State, s.phase = .absorb → exec .final s = .next { s with pstage := .mark, phase := .pad }) ∧
  (∀ s : State, s.phase = .idle ∨ s.phase = .out →
    exec .final s = .next { s with err := true, errCode := 3, phase := .fault })

/-- R137: a command out of sequence raises its fault and changes nothing else; INIT is never out of
sequence. -/
def Obligations.OutOfSequenceFaults : Prop :=
  ∀ s : State, s.phase = .idle ∨ s.phase = .out →
    (∀ b : Byte, transfer (0x100#10 ||| b.setWidth 10) s = .next { s with err := true, errCode := 2, phase := .fault }) ∧
    transfer 0x200#10 s = .next { s with err := true, errCode := 3, phase := .fault } ∧
    (∃ t, transfer 0x000#10 s = .next t ∧ t.phase = .absorb ∧ t.err = s.err)

/-- R84, R133: the 766 reserved words, by value, each rejected by the decoder; the transfer of one in
IDLE, ABSORB or OUT raises `ILLEGAL_CMD` and changes nothing else. -/
def Obligations.IllegalWordFaults : Prop :=
  (∀ w : CmdWord, (∃ r, decode (.cmd w) = .error r) ↔
    ((0x001 ≤ w.toNat ∧ w.toNat ≤ 0x0FF) ∨ (0x201 ≤ w.toNat ∧ w.toNat ≤ 0x2FF) ∨ 0x300 ≤ w.toNat)) ∧
  ((List.range 1024).filter (fun n => !(cmdWordWF (BitVec.ofNat 10 n)))).length = 766 ∧
  (∀ w : CmdWord, (∃ r, decode (.cmd w) = .error r) ↔ cmdWordWF w = false) ∧
  (∀ (w : CmdWord) (s : State), (∃ r, decode (.cmd w) = .error r) →
    s.phase = .idle ∨ s.phase = .absorb ∨ s.phase = .out →
    transfer w s = .next { s with err := true, errCode := 1, phase := .fault })

/-- R134: in FAULT every command word is discarded, and only reset leaves FAULT. -/
def Obligations.CommandInFaultDiscarded : Prop :=
  (∀ (w : CmdWord) (s : State), s.phase = .fault → cmdReady s = true ∧ transfer w s = .next s) ∧
  (∀ s : State, s.phase = .fault → s.pins.rst = false →
    ∃ k, step s = .next { s with inputs := s.inputs.drop k })

/-- R209: the priority within one command transfer. -/
def Obligations.TransferPriority : Prop :=
  ∀ (w : CmdWord) (s : State), cmdReady s = true →
    transfer w s =
      if s.phase = .fault then .next s
      else match decode (.cmd w) with
        | .error _ => .next { s with err := true, errCode := 1, phase := .fault }
        | .ok (.data b) =>
          if s.phase = .idle ∨ s.phase = .out then .next { s with err := true, errCode := 2, phase := .fault }
          else exec (.data b) s
        | .ok .final =>
          if s.phase = .idle ∨ s.phase = .out then .next { s with err := true, errCode := 3, phase := .fault }
          else exec .final s
        | .ok i => exec i s

/-- R135: a command offered while the engine is busy stays on the port (the model's `hold`, log 4) and has
no effect: the engine goes on as if nothing were offered. -/
def Obligations.CommandWaitsWhileBusy : Prop :=
  (∀ s1 s2 : State, s1.phase = s2.phase → cmdReady s1 = cmdReady s2) ∧
  (∀ (s : State) (w : CmdWord) (ds : List Drive) (t : State), busy s = true → s.inputs = commandEntry w :: ds →
    step s = .next t → t.inputs = s.inputs ∧
      step { s with inputs := [] } = .next { t with inputs := [] })

/-! ### Padder -/

/-- R150, R153: PADMARK. -/
def Obligations.PadmarkAppendsMarker : Prop :=
  ∀ (s : State) (hf : s.fill.val < 64), s.phase = .pad → s.pstage = .mark →
    let t : State := { s with
      chunk := s.chunk.set s.fill.val 0x80#8 hf, fill := ⟨s.fill.val + 1, Nat.succ_lt_succ hf⟩
      pstage := if s.fill.val + 1 = 56 then .len else .zero }
    (s.fill.val + 1 < 64 → exec .padmark s = .next t) ∧
    (s.fill.val + 1 = 64 → exec .padmark s = .next { t with ret := .pad, t := 0, phase := .sched })

/-- R151, R153: PADZERO. -/
def Obligations.PadzeroAppendsZero : Prop :=
  ∀ (s : State) (hf : s.fill.val < 64), s.phase = .pad → s.pstage = .zero →
    let t : State := { s with
      chunk := s.chunk.set s.fill.val 0x00#8 hf, fill := ⟨s.fill.val + 1, Nat.succ_lt_succ hf⟩
      pstage := if s.fill.val + 1 = 56 then .len else .zero }
    (s.fill.val + 1 < 64 → exec .padzero s = .next t) ∧
    (s.fill.val + 1 = 64 → exec .padzero s = .next { t with ret := .pad, t := 0, phase := .sched })

/-- R152, R153: PADLEN writes `ml[63-8j : 56-8j]`, `j = fill - 56`. -/
def Obligations.PadlenAppendsLengthByte : Prop :=
  ∀ (s : State) (hf : s.fill.val < 64), s.phase = .pad → s.pstage = .len → 56 ≤ s.fill.val →
    let t : State := { s with
      chunk := s.chunk.set s.fill.val (s.ml.extractLsb' (56 - 8 * (s.fill.val - 56)) 8) hf
      fill := ⟨s.fill.val + 1, Nat.succ_lt_succ hf⟩ }
    (s.fill.val + 1 < 64 → exec .padlen s = .next t) ∧
    (s.fill.val + 1 = 64 → exec .padlen s = .next { t with ret := .out, t := 0, phase := .sched })

/-! ### Schedule -/

/-- R160: WLOAD. -/
def Obligations.WloadLoadsChunkWord : Prop :=
  ∀ (s : State) (ht : s.t.val < 16), s.phase = .sched →
    exec .wload s = .next { s with
      w := s.w.set s.t.val (s.chunk[4 * s.t.val] ++ s.chunk[4 * s.t.val + 1] ++ s.chunk[4 * s.t.val + 2]
        ++ s.chunk[4 * s.t.val + 3])
      t := ⟨s.t.val + 1, Nat.lt_of_lt_of_le (Nat.succ_lt_succ ht) (by decide)⟩ }

/-- R161: WEXP. -/
def Obligations.WexpDerivesWord : Prop :=
  ∀ s : State, s.phase = .sched → 16 ≤ s.t.val →
    let x := s.w[s.t.val - 3] ^^^ s.w[s.t.val - 8] ^^^ s.w[s.t.val - 14] ^^^ s.w[s.t.val - 16]
    let u : State := { s with w := s.w.set s.t.val (x.extractLsb' 0 31 ++ x.extractLsb' 31 1) }
    (s.t.val = 79 → exec .wexp s = .next { u with phase := .binit }) ∧
    (∀ h : s.t.val < 79, exec .wexp s = .next { u with t := ⟨s.t.val + 1, Nat.succ_lt_succ h⟩ })

/-- R113: the equations of the message schedule as a function of the chunk. -/
def Obligations.ScheduleEquations : Prop :=
  ∀ (chunk : Vector Byte 64) (i : Fin 80),
    (∀ h : i.val < 16, (schedule chunk)[i] =
      be32 chunk[4 * i.val] chunk[4 * i.val + 1] chunk[4 * i.val + 2] chunk[4 * i.val + 3]) ∧
    (16 ≤ i.val → (schedule chunk)[i] =
      rotl ((schedule chunk)[i.val - 3] ^^^ (schedule chunk)[i.val - 8] ^^^ (schedule chunk)[i.val - 14]
        ^^^ (schedule chunk)[i.val - 16]) 1)

/-- R163: a derived word is the word of the four taps 3, 8, 14 and 16 places behind it: it reads those and
no other, the value of each of them shows in it, and it is the word WEXP writes. -/
def Obligations.ScheduleWindow : Prop :=
  (∀ (w w' : Vector Word 80) (i : Fin 80), 16 ≤ i.val →
    w[i.val - 3] = w'[i.val - 3] → w[i.val - 8] = w'[i.val - 8] → w[i.val - 14] = w'[i.val - 14] →
    w[i.val - 16] = w'[i.val - 16] → expandWord w i = expandWord w' i) ∧
  (∀ (w w' : Vector Word 80) (i k : Fin 80), 16 ≤ i.val →
    k.val + 3 = i.val ∨ k.val + 8 = i.val ∨ k.val + 14 = i.val ∨ k.val + 16 = i.val →
    (∀ n : Fin 80, n ≠ k → w[n] = w'[n]) → w[k] ≠ w'[k] → expandWord w i ≠ expandWord w' i) ∧
  (∀ s : State, s.phase = .sched → 16 ≤ s.t.val →
    ∃ t : State, exec .wexp s = .next t ∧ t.w = s.w.set s.t.val (expandWord s.w s.t))

/-! ### Updater -/

/-- R170: BINIT. -/
def Obligations.BinitCopiesRegisters : Prop :=
  ∀ s : State, s.phase = .binit →
    exec .binit s = .next { s with
      a := s.h[0], b := s.h[1], c := s.h[2], d := s.h[3], e := s.h[4], t := 0, phase := .round }

/-- R171, R175: RND0. -/
def Obligations.Rnd0Round : Prop :=
  ∀ s : State, s.phase = .round → s.t.val ≤ 19 →
    ∃ t, exec .rnd0 s = .next t ∧ AfterRound ((s.b &&& s.c) ||| (~~~s.b &&& s.d)) 0x5A827999#32 s t

/-- R172, R175: RND1. -/
def Obligations.Rnd1Round : Prop :=
  ∀ s : State, s.phase = .round → 20 ≤ s.t.val → s.t.val ≤ 39 →
    ∃ t, exec .rnd1 s = .next t ∧ AfterRound (s.b ^^^ s.c ^^^ s.d) 0x6ED9EBA1#32 s t

/-- R173, R175: RND2. -/
def Obligations.Rnd2Round : Prop :=
  ∀ s : State, s.phase = .round → 40 ≤ s.t.val → s.t.val ≤ 59 →
    ∃ t, exec .rnd2 s = .next t ∧ AfterRound ((s.b &&& s.c) ||| (s.b &&& s.d) ||| (s.c &&& s.d)) 0x8F1BBCDC#32 s t

/-- R174, R175: RND3. -/
def Obligations.Rnd3Round : Prop :=
  ∀ s : State, s.phase = .round → 60 ≤ s.t.val →
    ∃ t, exec .rnd3 s = .next t ∧ AfterRound (s.b ^^^ s.c ^^^ s.d) 0xCA62C1D6#32 s t

/-- R177: FOLD. -/
def Obligations.FoldAddsRoundVariables : Prop :=
  ∀ s : State, s.phase = .fold →
    let t : State := { s with
      h := #v[s.h[0] + s.a, s.h[1] + s.b, s.h[2] + s.c, s.h[3] + s.d, s.h[4] + s.e], fill := 0 }
    (s.ret = .absorb → exec .fold s = .next { t with phase := .absorb }) ∧
    (s.ret = .pad → exec .fold s = .next { t with phase := .pad }) ∧
    (s.ret = .out → exec .fold s = .next { t with oidx := 0, phase := .out })

/-! ### Serializer -/

/-- R190, R194: the offered byte in OUT, `0x00` in every other phase. -/
def Obligations.OutDataIsDigestByte : Prop :=
  ∀ s : State,
    (s.phase = .out → outValid s = true ∧ ∀ (i : Fin 5) (j : Fin 4), s.oidx.val = 4 * i.val + j.val →
      outData s = s.h[i].extractLsb' (24 - 8 * j.val) 8) ∧
    (s.phase ≠ .out → outValid s = false ∧ outData s = 0x00#8)

/-- R191: TAKE, its whole effect in OUT; in every other phase it does nothing. `delivered` is how the model
writes the delivery to the host (log 5). -/
def Obligations.TakeDeliversByte : Prop :=
  (∀ s : State, s.phase = .out →
    let u : State := { s with delivered := s.delivered ++ [outData s] }
    (s.oidx.val = 19 → exec .take s = .next { u with phase := .idle }) ∧
    (∀ h : s.oidx.val < 19, exec .take s = .next { u with oidx := ⟨s.oidx.val + 1, Nat.succ_lt_succ h⟩ })) ∧
  (∀ s : State, s.phase ≠ .out → exec .take s = .next s)

/-- R193: while the host neither resets, nor sends a command, nor takes, the offered byte is stable. -/
def Obligations.OutDataStable : Prop :=
  ∀ s : State, s.phase = .out → s.pins.rst = false → s.pins.cmdValid = false → s.pins.outReady = false →
    ∃ t, step s = .next t ∧ t.h = s.h ∧ t.oidx = s.oidx ∧ t.phase = .out ∧ outData t = outData s

/-- R210: a take and a command on the same edge both happen, the take first, the command on the state the
take left; INIT restarts, anything else faults. -/
def Obligations.TakeAndCommandSameEdge : Prop :=
  ∀ s : State, s.phase = .out → s.pins.rst = false → s.pins.cmdValid = true → s.pins.outReady = true →
    ∃ u, exec .take { s with inputs := s.inputs.drop 1 } = .next u ∧
      u.delivered = s.delivered ++ [outData s] ∧ (s.oidx.val = 19 → u.phase = .idle) ∧
      step s = transfer s.pins.cmd u ∧
      (s.pins.cmd = 0x000#10 → step s = .next { u with h := IV, ml := 0, fill := 0, phase := .absorb }) ∧
      (s.pins.cmd ≠ 0x000#10 → ∃ code, code ≠ 0 ∧ step s = .next { u with err := true, errCode := code, phase := .fault })

/-! ### Reset -/

/-- R230: RESET in every state, what it writes, and that one edge with `rst = 1` is one RESET. That every
other element keeps its value through RESET is the model's reading (log 2): R40 and D14 call those elements
unspecified after reset. That the edge also passes one entry of `inputs` is the model's (log 4). -/
def Obligations.ResetWritesThree : Prop :=
  (∀ s : State, exec .reset s = .next { s with phase := .idle, err := false, errCode := 0 }) ∧
  (∀ s : State, s.pins.rst = true →
    step s = .next { s with inputs := s.inputs.drop 1, phase := .idle, err := false, errCode := 0 })

/-- R231, R40: what the ports show after reset: of the reset state and of every state RESET leaves. The
values `State.reset` gives the elements R40 calls unspecified are the model's (log 1) and are not stated. -/
def Obligations.PortsAfterReset : Prop :=
  ∀ t : State, t = State.reset ∨ (∃ s, exec .reset s = .next t) →
    t.phase = .idle ∧ microOp t = none ∧
    outputs t = { cmdReady := true, outValid := false, outData := 0x00#8, err := false, errCode := 0 }

/-! ### The step -/

/-- R12, R13, R80, R92, R133: a step is the execution of the decoded instruction, on the state with the edge's
input levels passed (log 4); a command word on the port of a ready engine transfers, a reserved one too, and
then raises `ILLEGAL_CMD` outside FAULT; the host's waiting changes nothing but the levels. -/
def Obligations.StepRunsDecodedInstruction : Prop :=
  (∀ s : State, decode (.pin (pinWord s)) = .ok .reset → step s = exec .reset (passInput true s)) ∧
  (∀ (s : State) (i : Instr), s.pins.rst = false → decode (.seq (selector s)) = .ok i →
    step s = exec i (passInput false s)) ∧
  (∀ (s : State) (i : Instr), s.pins.rst = false → cmdReady s = true → s.pins.cmdValid = true →
    pinEvent s ≠ some .take → decode (.cmd s.pins.cmd) = .ok i → step s = exec i (passInput true s)) ∧
  (∀ s : State, s.pins.rst = false → cmdReady s = true → s.pins.cmdValid = true → pinEvent s ≠ some .take →
    step s = transfer s.pins.cmd (passInput true s)) ∧
  (∀ (s : State) (r : Reject), s.pins.rst = false → cmdReady s = true → s.pins.cmdValid = true →
    pinEvent s ≠ some .take → decode (.cmd s.pins.cmd) = .error r → s.phase ≠ .fault →
    step s = .next { passInput true s with err := true, errCode := 1, phase := .fault }) ∧
  (∀ s : State, decode (.pin (pinWord s)) = .ok .take → s.pins.cmdValid = false →
    step s = exec .take (passInput true s)) ∧
  (∀ s : State, s.pins.rst = false → cmdReady s = true → s.pins.cmdValid = false → pinEvent s ≠ some .take →
    step s = .next (passInput false s)) ∧
  (∀ (acted : Bool) (s : State), passInput acted s = s ∨ passInput acted s = { s with inputs := s.inputs.drop 1 })

/-! ### The whole machine -/

/-- R13: reset apart, at most one of the two agents has an enabled step, the engine in the busy phases and
the host in the others. -/
def Obligations.OneAgentEnabled : Prop :=
  ∀ s : State, ((microOp s).isSome = true ↔ busy s = true) ∧
    (busy s = true → cmdReady s = false ∧ outValid s = false) ∧
    (busy s = true ↔ s.phase = .pad ∨ s.phase = .sched ∨ s.phase = .binit ∨ s.phase = .round ∨ s.phase = .fold)

/-- R93: every way `phase` changes. -/
def Obligations.PhaseTransitions : Prop :=
  ∀ s t : State, step s = .next t → t.phase ≠ s.phase →
    (s.pins.rst = true ∧ t.phase = .idle) ∨
    (s.pins.rst = false ∧
      ((s.phase = .idle ∧ t.phase = .absorb ∧ s.pins.cmdValid = true ∧ s.pins.cmd = 0x000#10) ∨
       (s.phase = .idle ∧ t.phase = .fault ∧ s.pins.cmdValid = true ∧ s.pins.cmd ≠ 0x000#10) ∨
       (s.phase = .absorb ∧ t.phase = .sched ∧ s.pins.cmdValid = true ∧ cmdOp s.pins.cmd = 1#2 ∧ s.fill.val + 1 = 64) ∨
       (s.phase = .absorb ∧ t.phase = .pad ∧ s.pins.cmdValid = true ∧ s.pins.cmd = 0x200#10) ∨
       (s.phase = .absorb ∧ t.phase = .fault ∧ s.pins.cmdValid = true ∧ cmdWordWF s.pins.cmd = false) ∨
       (s.phase = .pad ∧ t.phase = .sched ∧ s.fill.val + 1 = 64) ∨
       (s.phase = .sched ∧ t.phase = .binit ∧ s.t.val = 79) ∨
       (s.phase = .binit ∧ t.phase = .round) ∨
       (s.phase = .round ∧ t.phase = .fold ∧ s.t.val = 79) ∨
       (s.phase = .fold ∧ t.phase = s.ret.phase) ∨
       (s.phase = .out ∧ t.phase = .idle ∧ s.pins.outReady = true ∧ s.oidx.val = 19) ∨
       (s.phase = .out ∧ t.phase = .absorb ∧ s.pins.cmdValid = true ∧ s.pins.cmd = 0x000#10) ∨
       (s.phase = .out ∧ t.phase = .fault ∧ s.pins.cmdValid = true ∧ s.pins.cmd ≠ 0x000#10)))

/-- R38: the frame of every instruction: only the elements its row of the access matrix marks `w` change,
of `chunk` only the byte at `fill`, of `w` only the word at `t`; the host's side changes only by a take. For
RESET, that the elements its row leaves blank keep their values is the model's reading (log 2). -/
def Obligations.AccessMatrixFrame : Prop :=
  ∀ (i : Instr) (s t : State), exec i s = .next t →
    ChangesOnly (writesFrom i s) s t ∧ t.inputs = s.inputs ∧ (i ≠ .take → t.delivered = s.delivered)

/-- R33, R208: `err_code` keeps the cause of the first fault, and no step but reset clears `err`. -/
def Obligations.ErrIsSticky : Prop :=
  ∀ s t : State, CtlInv s → step s = .next t → s.err = true → s.pins.rst = false →
    t.err = true ∧ t.errCode = s.errCode ∧ t.phase = .fault

/-- R39, R40: the invariants hold at reset. They constrain no element R40 calls unspecified there. -/
def Obligations.ControlInvariantAtReset : Prop := CtlInv State.reset ∧ DataInv State.reset

/-- R39: every step keeps the control invariant, from every state that meets it. -/
def Obligations.ControlInvariantKept : Prop :=
  ∀ s t : State, CtlInv s → step s = .next t → CtlInv t

/-- R39, R113, R116: every step keeps the data invariant. -/
def Obligations.DataInvariantKept : Prop :=
  ∀ s t : State, DataInv s → step s = .next t → DataInv t

/-- R200, R59: a state that meets the control invariant always has a next state. -/
def Obligations.EngineNeverStops : Prop :=
  ∀ s : State, CtlInv s → ∃ t, step s = .next t

/-- R117, R162, R176, R177: a compression takes 162 engine steps, is busy all the while, and leaves
`compress(h, chunk)` in `h` and the phase `ret`. -/
def Obligations.CompressionComputes : Prop :=
  ∀ s : State, s.phase = .sched → s.t.val = 0 → NoReset s →
    (∀ k, k < 162 → ∃ u : State, Host.Core.run core k s = .next u ∧ busy u = true) ∧
    ∃ t : State, Host.Core.run core 162 s = .next t ∧ t.h = compress s.h s.chunk ∧ t.phase = s.ret.phase ∧
      t.fill.val = 0 ∧ (s.ret = .out → t.oidx.val = 0) ∧ t.ml = s.ml ∧ t.chunk = s.chunk ∧ t.pstage = s.pstage ∧
      t.err = s.err ∧ t.errCode = s.errCode ∧ t.delivered = s.delivered

/-- R154, R237: after FINAL the engine is busy for exactly `1 + z + 8` padder steps and 162 steps for each
of the one or two compressions, at most 396 steps, and then offers the digest. -/
def Obligations.PadderReachesOut : Prop :=
  (∀ s : State, s.phase = .pad → s.pstage = .mark → s.fill.val ≤ 63 → NoReset s →
    (∀ k, k < padSteps s.fill.val → ∃ u : State, Host.Core.run core k s = .next u ∧ busy u = true) ∧
    ∃ t : State, Host.Core.run core (padSteps s.fill.val) s = .next t ∧ t.phase = .out ∧ t.oidx.val = 0 ∧
      outValid t = true ∧ t.ml = s.ml) ∧
  (∀ fill, fill ≤ 63 → padSteps fill ≤ 396) ∧ padSteps 56 = 396

/-- R85, R111: the padded message's length, the least that fits, and that its zero bytes are as few as step
3 allows. -/
def Obligations.PaddedMessageLayout : Prop :=
  ∀ m : List Byte,
    zeroCount m.length ≤ 63 ∧ (pad m).length = m.length + 1 + zeroCount m.length + 8 ∧
    (pad m).length = 64 * chunkCount m.length ∧ m.length + 9 ≤ (pad m).length ∧ (pad m).length < m.length + 9 + 64 ∧
    (8 * (m.length + 1 + zeroCount m.length)) % 512 = 448 ∧
    (∀ z, z < zeroCount m.length → (8 * (m.length + 1 + z)) % 512 ≠ 448) ∧
    (∀ i, i < m.length → (pad m)[i]? = m[i]?) ∧ (pad m)[m.length]? = some 0x80#8 ∧
    (∀ z, z < zeroCount m.length → (pad m)[m.length + 1 + z]? = some 0x00#8) ∧
    (∀ j : Fin 8, (pad m)[m.length + 1 + zeroCount m.length + j.val]? = some (byte64 (BitVec.ofNat 64 (8 * m.length)) j))

/-- R119, R88: every digest has exactly 20 bytes, byte `4i + j` of it byte `j` of `h[i]`. -/
def Obligations.DigestLayout : Prop :=
  ∀ m : List Byte, (digest m).length = 20 ∧
    ∀ (i : Fin 5) (j : Fin 4), (digest m)[4 * i.val + j.val]? = some ((finalHash m)[i].extractLsb' (24 - 8 * j.val) 8)

/-- R125, R118, R156: the `n`-th compression sees the `n`-th chunk of `pad(m)`, with the fold of the earlier
chunks in `h`. What the host drives is written as the model's list of levels (log 4), and the count is of the
model's steps (log 6). -/
def Obligations.ChunksArePaddedMessage : Prop :=
  ∀ (m : List Byte) (s : State) (n : Nat), s.phase = .idle ∨ s.phase = .absorb ∨ s.phase = .out →
    s.inputs = script (messageLines m) → n < chunkCount m.length →
    ∃ u : State, Host.Core.run core (stepsToChunk m.length n) s = .next u ∧ u.phase = .sched ∧ u.t.val = 0 ∧
      u.chunk = chunkOf (pad m) n ∧ u.h = hashChunks (pad m) n

/-- R156, R125: the compressions of `ChunksArePaddedMessage` are all there are: from INIT to the entry to OUT
one starts after the counted steps for each chunk of `pad(m)`, and after no other number of steps. The script
and the count are written as the model's (logs 4 and 6). -/
def Obligations.CompressionsAreTheChunks : Prop :=
  ∀ (m : List Byte) (s : State) (k : Nat), s.phase = .idle ∨ s.phase = .absorb ∨ s.phase = .out →
    s.inputs = script (messageLines m) → k ≤ stepsToOut m.length →
    ∃ u : State, Host.Core.run core k s = .next u ∧
      ((u.phase = .sched ∧ u.t.val = 0) ↔ ∃ n, n < chunkCount m.length ∧ k = stepsToChunk m.length n)

/-- R125: the machine agrees with the function. For every message, from any state that accepts INIT, the
host sequence `INIT; DATA ...; FINAL` reaches OUT after exactly the steps the rule counts with the final
`H` in `h`, and twenty takes then deliver `digest(m)` and leave IDLE. The script, the
bytes the host has and the count are written as the model's (logs 4, 5 and 6). -/
def Obligations.MachineDeliversDigest : Prop :=
  ∀ (m : List Byte) (s : State), s.phase = .idle ∨ s.phase = .absorb ∨ s.phase = .out →
    s.inputs = script (digestLines m) →
    (∃ t : State, Host.Core.run core (stepsToOut m.length) s = .next t ∧ t.phase = .out ∧ t.oidx.val = 0 ∧
      t.h = finalHash m ∧ t.err = s.err ∧ t.delivered = s.delivered) ∧
    (∃ u : State, Host.Core.run core (stepsToOut m.length + 20) s = .next u ∧ u.phase = .idle ∧
      u.delivered = s.delivered ++ digest m ∧ u.inputs = [] ∧ u.err = s.err)

/-- R41, R234: contents that no rule lets a step read never reach a port: two states that agree on what is
live stay so under every step, stop alike, and show the same on every output port. -/
def Obligations.DeadContentsNeverShow : Prop :=
  ∀ s1 s2 : State, LiveEq s1 s2 →
    outputs s1 = outputs s2 ∧
    match step s1, step s2 with
    | .next t1, .next t2 => LiveEq t1 t2
    | .fault f1, .fault f2 => f1 = f2
    | .refused r1, .refused r2 => r1 = r2
    | _, _ => False

/-! ### Where an instruction has no effect, and where the model stops -/

/-- R135, as the model reads it for `exec` (log 9): a command given to a busy engine, legal or not, changes
nothing; it waits. -/
def Obligations.BusyEngineIgnoresCommand : Prop :=
  ∀ s : State, busy s = true →
    exec .init s = .next s ∧ (∀ b : Byte, exec (.data b) s = .next s) ∧ exec .final s = .next s ∧
    (∀ w : CmdWord, transfer w s = .next s)

/-- The model's stops (log 8), where R92 selects no step, R59 gives CHUNK no byte 64 and R152 gives the length
field no byte `fill - 56`. -/
def Obligations.StopsWhereNoStepIsDefined : Prop :=
  (∀ (i : Instr) (w : SelWord) (s : State), encode i = .seq w → microOp s ≠ some i → exec i s = .fault .notSelected) ∧
  (∀ (b : Byte) (s : State), s.phase = .absorb → s.fill.val = 64 → exec (.data b) s = .fault .chunkIndex) ∧
  (∀ (i : Instr) (s : State), s.phase = .pad → microOp s = some i → s.fill.val = 64 →
    exec i s = .fault .chunkIndex) ∧
  (∀ s : State, s.phase = .pad → s.pstage = .len → s.fill.val < 56 → exec .padlen s = .fault .lengthByteIndex)
end

