-- ==== Sys2Proof/Laws/State.lean ====
section
/-! SUPPORT. What each update of the state leaves in each field: one lemma per field per update. -/
namespace Sys2Proof.Machine

/-! `raiseFault` -/

@[simp] theorem raiseFault_h (code : BitVec 2) (s : State) : (raiseFault code s).h = s.h := rfl
@[simp] theorem raiseFault_a (code : BitVec 2) (s : State) : (raiseFault code s).a = s.a := rfl
@[simp] theorem raiseFault_b (code : BitVec 2) (s : State) : (raiseFault code s).b = s.b := rfl
@[simp] theorem raiseFault_c (code : BitVec 2) (s : State) : (raiseFault code s).c = s.c := rfl
@[simp] theorem raiseFault_d (code : BitVec 2) (s : State) : (raiseFault code s).d = s.d := rfl
@[simp] theorem raiseFault_e (code : BitVec 2) (s : State) : (raiseFault code s).e = s.e := rfl
@[simp] theorem raiseFault_w (code : BitVec 2) (s : State) : (raiseFault code s).w = s.w := rfl
@[simp] theorem raiseFault_chunk (code : BitVec 2) (s : State) : (raiseFault code s).chunk = s.chunk := rfl
@[simp] theorem raiseFault_ml (code : BitVec 2) (s : State) : (raiseFault code s).ml = s.ml := rfl
@[simp] theorem raiseFault_fill (code : BitVec 2) (s : State) : (raiseFault code s).fill = s.fill := rfl
@[simp] theorem raiseFault_t (code : BitVec 2) (s : State) : (raiseFault code s).t = s.t := rfl
@[simp] theorem raiseFault_oidx (code : BitVec 2) (s : State) : (raiseFault code s).oidx = s.oidx := rfl
@[simp] theorem raiseFault_phase (code : BitVec 2) (s : State) : (raiseFault code s).phase = .fault := rfl
@[simp] theorem raiseFault_pstage (code : BitVec 2) (s : State) : (raiseFault code s).pstage = s.pstage := rfl
@[simp] theorem raiseFault_ret (code : BitVec 2) (s : State) : (raiseFault code s).ret = s.ret := rfl
@[simp] theorem raiseFault_err (code : BitVec 2) (s : State) : (raiseFault code s).err = true := rfl
@[simp] theorem raiseFault_errCode (code : BitVec 2) (s : State) : (raiseFault code s).errCode = code := rfl
@[simp] theorem raiseFault_inputs (code : BitVec 2) (s : State) : (raiseFault code s).inputs = s.inputs := rfl
@[simp] theorem raiseFault_delivered (code : BitVec 2) (s : State) : (raiseFault code s).delivered = s.delivered := rfl

/-! `leaveToIdle` -/

@[simp] theorem leaveToIdle_h (s : State) : (leaveToIdle s).h = s.h := rfl
@[simp] theorem leaveToIdle_a (s : State) : (leaveToIdle s).a = s.a := rfl
@[simp] theorem leaveToIdle_b (s : State) : (leaveToIdle s).b = s.b := rfl
@[simp] theorem leaveToIdle_c (s : State) : (leaveToIdle s).c = s.c := rfl
@[simp] theorem leaveToIdle_d (s : State) : (leaveToIdle s).d = s.d := rfl
@[simp] theorem leaveToIdle_e (s : State) : (leaveToIdle s).e = s.e := rfl
@[simp] theorem leaveToIdle_w (s : State) : (leaveToIdle s).w = s.w := rfl
@[simp] theorem leaveToIdle_chunk (s : State) : (leaveToIdle s).chunk = s.chunk := rfl
@[simp] theorem leaveToIdle_ml (s : State) : (leaveToIdle s).ml = s.ml := rfl
@[simp] theorem leaveToIdle_fill (s : State) : (leaveToIdle s).fill = s.fill := rfl
@[simp] theorem leaveToIdle_t (s : State) : (leaveToIdle s).t = s.t := rfl
@[simp] theorem leaveToIdle_oidx (s : State) : (leaveToIdle s).oidx = s.oidx := rfl
@[simp] theorem leaveToIdle_phase (s : State) : (leaveToIdle s).phase = .idle := rfl
@[simp] theorem leaveToIdle_pstage (s : State) : (leaveToIdle s).pstage = s.pstage := rfl
@[simp] theorem leaveToIdle_ret (s : State) : (leaveToIdle s).ret = s.ret := rfl
@[simp] theorem leaveToIdle_err (s : State) : (leaveToIdle s).err = false := rfl
@[simp] theorem leaveToIdle_errCode (s : State) : (leaveToIdle s).errCode = 0 := rfl
@[simp] theorem leaveToIdle_inputs (s : State) : (leaveToIdle s).inputs = s.inputs := rfl
@[simp] theorem leaveToIdle_delivered (s : State) : (leaveToIdle s).delivered = s.delivered := rfl

/-! `startCompression` -/

@[simp] theorem startCompression_h (r : Ret) (s : State) : (startCompression r s).h = s.h := rfl
@[simp] theorem startCompression_a (r : Ret) (s : State) : (startCompression r s).a = s.a := rfl
@[simp] theorem startCompression_b (r : Ret) (s : State) : (startCompression r s).b = s.b := rfl
@[simp] theorem startCompression_c (r : Ret) (s : State) : (startCompression r s).c = s.c := rfl
@[simp] theorem startCompression_d (r : Ret) (s : State) : (startCompression r s).d = s.d := rfl
@[simp] theorem startCompression_e (r : Ret) (s : State) : (startCompression r s).e = s.e := rfl
@[simp] theorem startCompression_w (r : Ret) (s : State) : (startCompression r s).w = s.w := rfl
@[simp] theorem startCompression_chunk (r : Ret) (s : State) : (startCompression r s).chunk = s.chunk := rfl
@[simp] theorem startCompression_ml (r : Ret) (s : State) : (startCompression r s).ml = s.ml := rfl
@[simp] theorem startCompression_fill (r : Ret) (s : State) : (startCompression r s).fill = s.fill := rfl
@[simp] theorem startCompression_t (r : Ret) (s : State) : (startCompression r s).t = 0 := rfl
@[simp] theorem startCompression_oidx (r : Ret) (s : State) : (startCompression r s).oidx = s.oidx := rfl
@[simp] theorem startCompression_phase (r : Ret) (s : State) : (startCompression r s).phase = .sched := rfl
@[simp] theorem startCompression_pstage (r : Ret) (s : State) : (startCompression r s).pstage = s.pstage := rfl
@[simp] theorem startCompression_ret (r : Ret) (s : State) : (startCompression r s).ret = r := rfl
@[simp] theorem startCompression_err (r : Ret) (s : State) : (startCompression r s).err = s.err := rfl
@[simp] theorem startCompression_errCode (r : Ret) (s : State) : (startCompression r s).errCode = s.errCode := rfl
@[simp] theorem startCompression_inputs (r : Ret) (s : State) : (startCompression r s).inputs = s.inputs := rfl
@[simp] theorem startCompression_delivered (r : Ret) (s : State) : (startCompression r s).delivered = s.delivered := rfl

/-! `setVars` -/

@[simp] theorem setVars_h (v : RoundVars) (s : State) : (s.setVars v).h = s.h := rfl
@[simp] theorem setVars_a (v : RoundVars) (s : State) : (s.setVars v).a = v.a := rfl
@[simp] theorem setVars_b (v : RoundVars) (s : State) : (s.setVars v).b = v.b := rfl
@[simp] theorem setVars_c (v : RoundVars) (s : State) : (s.setVars v).c = v.c := rfl
@[simp] theorem setVars_d (v : RoundVars) (s : State) : (s.setVars v).d = v.d := rfl
@[simp] theorem setVars_e (v : RoundVars) (s : State) : (s.setVars v).e = v.e := rfl
@[simp] theorem setVars_w (v : RoundVars) (s : State) : (s.setVars v).w = s.w := rfl
@[simp] theorem setVars_chunk (v : RoundVars) (s : State) : (s.setVars v).chunk = s.chunk := rfl
@[simp] theorem setVars_ml (v : RoundVars) (s : State) : (s.setVars v).ml = s.ml := rfl
@[simp] theorem setVars_fill (v : RoundVars) (s : State) : (s.setVars v).fill = s.fill := rfl
@[simp] theorem setVars_t (v : RoundVars) (s : State) : (s.setVars v).t = s.t := rfl
@[simp] theorem setVars_oidx (v : RoundVars) (s : State) : (s.setVars v).oidx = s.oidx := rfl
@[simp] theorem setVars_phase (v : RoundVars) (s : State) : (s.setVars v).phase = s.phase := rfl
@[simp] theorem setVars_pstage (v : RoundVars) (s : State) : (s.setVars v).pstage = s.pstage := rfl
@[simp] theorem setVars_ret (v : RoundVars) (s : State) : (s.setVars v).ret = s.ret := rfl
@[simp] theorem setVars_err (v : RoundVars) (s : State) : (s.setVars v).err = s.err := rfl
@[simp] theorem setVars_errCode (v : RoundVars) (s : State) : (s.setVars v).errCode = s.errCode := rfl
@[simp] theorem setVars_inputs (v : RoundVars) (s : State) : (s.setVars v).inputs = s.inputs := rfl
@[simp] theorem setVars_delivered (v : RoundVars) (s : State) : (s.setVars v).delivered = s.delivered := rfl

/-! `deliver` -/

@[simp] theorem deliver_h (s : State) : (deliver s).h = s.h := rfl
@[simp] theorem deliver_a (s : State) : (deliver s).a = s.a := rfl
@[simp] theorem deliver_b (s : State) : (deliver s).b = s.b := rfl
@[simp] theorem deliver_c (s : State) : (deliver s).c = s.c := rfl
@[simp] theorem deliver_d (s : State) : (deliver s).d = s.d := rfl
@[simp] theorem deliver_e (s : State) : (deliver s).e = s.e := rfl
@[simp] theorem deliver_w (s : State) : (deliver s).w = s.w := rfl
@[simp] theorem deliver_chunk (s : State) : (deliver s).chunk = s.chunk := rfl
@[simp] theorem deliver_ml (s : State) : (deliver s).ml = s.ml := rfl
@[simp] theorem deliver_fill (s : State) : (deliver s).fill = s.fill := rfl
@[simp] theorem deliver_t (s : State) : (deliver s).t = s.t := rfl
@[simp] theorem deliver_oidx (s : State) : (deliver s).oidx = s.oidx := rfl
@[simp] theorem deliver_phase (s : State) : (deliver s).phase = s.phase := rfl
@[simp] theorem deliver_pstage (s : State) : (deliver s).pstage = s.pstage := rfl
@[simp] theorem deliver_ret (s : State) : (deliver s).ret = s.ret := rfl
@[simp] theorem deliver_err (s : State) : (deliver s).err = s.err := rfl
@[simp] theorem deliver_errCode (s : State) : (deliver s).errCode = s.errCode := rfl
@[simp] theorem deliver_inputs (s : State) : (deliver s).inputs = s.inputs := rfl
@[simp] theorem deliver_delivered (s : State) : (deliver s).delivered = s.delivered ++ [outData s] := rfl

/-! `advanceT` -/

@[simp] theorem advanceT_h (last : Phase) (s : State) : (advanceT last s).h = s.h := rfl
@[simp] theorem advanceT_a (last : Phase) (s : State) : (advanceT last s).a = s.a := rfl
@[simp] theorem advanceT_b (last : Phase) (s : State) : (advanceT last s).b = s.b := rfl
@[simp] theorem advanceT_c (last : Phase) (s : State) : (advanceT last s).c = s.c := rfl
@[simp] theorem advanceT_d (last : Phase) (s : State) : (advanceT last s).d = s.d := rfl
@[simp] theorem advanceT_e (last : Phase) (s : State) : (advanceT last s).e = s.e := rfl
@[simp] theorem advanceT_w (last : Phase) (s : State) : (advanceT last s).w = s.w := rfl
@[simp] theorem advanceT_chunk (last : Phase) (s : State) : (advanceT last s).chunk = s.chunk := rfl
@[simp] theorem advanceT_ml (last : Phase) (s : State) : (advanceT last s).ml = s.ml := rfl
@[simp] theorem advanceT_fill (last : Phase) (s : State) : (advanceT last s).fill = s.fill := rfl
@[simp] theorem advanceT_t (last : Phase) (s : State) : (advanceT last s).t = nextT s := rfl
@[simp] theorem advanceT_oidx (last : Phase) (s : State) : (advanceT last s).oidx = s.oidx := rfl
@[simp] theorem advanceT_phase (last : Phase) (s : State) : (advanceT last s).phase = if s.t.val < 79 then s.phase else last := rfl
@[simp] theorem advanceT_pstage (last : Phase) (s : State) : (advanceT last s).pstage = s.pstage := rfl
@[simp] theorem advanceT_ret (last : Phase) (s : State) : (advanceT last s).ret = s.ret := rfl
@[simp] theorem advanceT_err (last : Phase) (s : State) : (advanceT last s).err = s.err := rfl
@[simp] theorem advanceT_errCode (last : Phase) (s : State) : (advanceT last s).errCode = s.errCode := rfl
@[simp] theorem advanceT_inputs (last : Phase) (s : State) : (advanceT last s).inputs = s.inputs := rfl
@[simp] theorem advanceT_delivered (last : Phase) (s : State) : (advanceT last s).delivered = s.delivered := rfl

/-! `advanceOidx` -/

@[simp] theorem advanceOidx_h (s : State) : (advanceOidx s).h = s.h := rfl
@[simp] theorem advanceOidx_a (s : State) : (advanceOidx s).a = s.a := rfl
@[simp] theorem advanceOidx_b (s : State) : (advanceOidx s).b = s.b := rfl
@[simp] theorem advanceOidx_c (s : State) : (advanceOidx s).c = s.c := rfl
@[simp] theorem advanceOidx_d (s : State) : (advanceOidx s).d = s.d := rfl
@[simp] theorem advanceOidx_e (s : State) : (advanceOidx s).e = s.e := rfl
@[simp] theorem advanceOidx_w (s : State) : (advanceOidx s).w = s.w := rfl
@[simp] theorem advanceOidx_chunk (s : State) : (advanceOidx s).chunk = s.chunk := rfl
@[simp] theorem advanceOidx_ml (s : State) : (advanceOidx s).ml = s.ml := rfl
@[simp] theorem advanceOidx_fill (s : State) : (advanceOidx s).fill = s.fill := rfl
@[simp] theorem advanceOidx_t (s : State) : (advanceOidx s).t = s.t := rfl
@[simp] theorem advanceOidx_oidx (s : State) : (advanceOidx s).oidx = nextOidx s := rfl
@[simp] theorem advanceOidx_phase (s : State) : (advanceOidx s).phase = if s.oidx.val < 19 then s.phase else .idle := rfl
@[simp] theorem advanceOidx_pstage (s : State) : (advanceOidx s).pstage = s.pstage := rfl
@[simp] theorem advanceOidx_ret (s : State) : (advanceOidx s).ret = s.ret := rfl
@[simp] theorem advanceOidx_err (s : State) : (advanceOidx s).err = s.err := rfl
@[simp] theorem advanceOidx_errCode (s : State) : (advanceOidx s).errCode = s.errCode := rfl
@[simp] theorem advanceOidx_inputs (s : State) : (advanceOidx s).inputs = s.inputs := rfl
@[simp] theorem advanceOidx_delivered (s : State) : (advanceOidx s).delivered = s.delivered := rfl

/-! `passInput` -/

@[simp] theorem passInput_h (acted : Bool) (s : State) : (passInput acted s).h = s.h := rfl
@[simp] theorem passInput_a (acted : Bool) (s : State) : (passInput acted s).a = s.a := rfl
@[simp] theorem passInput_b (acted : Bool) (s : State) : (passInput acted s).b = s.b := rfl
@[simp] theorem passInput_c (acted : Bool) (s : State) : (passInput acted s).c = s.c := rfl
@[simp] theorem passInput_d (acted : Bool) (s : State) : (passInput acted s).d = s.d := rfl
@[simp] theorem passInput_e (acted : Bool) (s : State) : (passInput acted s).e = s.e := rfl
@[simp] theorem passInput_w (acted : Bool) (s : State) : (passInput acted s).w = s.w := rfl
@[simp] theorem passInput_chunk (acted : Bool) (s : State) : (passInput acted s).chunk = s.chunk := rfl
@[simp] theorem passInput_ml (acted : Bool) (s : State) : (passInput acted s).ml = s.ml := rfl
@[simp] theorem passInput_fill (acted : Bool) (s : State) : (passInput acted s).fill = s.fill := rfl
@[simp] theorem passInput_t (acted : Bool) (s : State) : (passInput acted s).t = s.t := rfl
@[simp] theorem passInput_oidx (acted : Bool) (s : State) : (passInput acted s).oidx = s.oidx := rfl
@[simp] theorem passInput_phase (acted : Bool) (s : State) : (passInput acted s).phase = s.phase := rfl
@[simp] theorem passInput_pstage (acted : Bool) (s : State) : (passInput acted s).pstage = s.pstage := rfl
@[simp] theorem passInput_ret (acted : Bool) (s : State) : (passInput acted s).ret = s.ret := rfl
@[simp] theorem passInput_err (acted : Bool) (s : State) : (passInput acted s).err = s.err := rfl
@[simp] theorem passInput_errCode (acted : Bool) (s : State) : (passInput acted s).errCode = s.errCode := rfl
@[simp] theorem passInput_inputs (acted : Bool) (s : State) : (passInput acted s).inputs = inputsAfter acted s.inputs := rfl
@[simp] theorem passInput_delivered (acted : Bool) (s : State) : (passInput acted s).delivered = s.delivered := rfl

/-! `roundStep`; its five round variables together. -/

@[simp] theorem roundStep_h (f : Word → Word → Word → Word) (k : Word) (s : State) :
    (roundStep f k s).h = s.h := rfl
@[simp] theorem roundStep_w (f : Word → Word → Word → Word) (k : Word) (s : State) :
    (roundStep f k s).w = s.w := rfl
@[simp] theorem roundStep_chunk (f : Word → Word → Word → Word) (k : Word) (s : State) :
    (roundStep f k s).chunk = s.chunk := rfl
@[simp] theorem roundStep_ml (f : Word → Word → Word → Word) (k : Word) (s : State) :
    (roundStep f k s).ml = s.ml := rfl
@[simp] theorem roundStep_fill (f : Word → Word → Word → Word) (k : Word) (s : State) :
    (roundStep f k s).fill = s.fill := rfl
@[simp] theorem roundStep_t (f : Word → Word → Word → Word) (k : Word) (s : State) :
    (roundStep f k s).t = nextT s := rfl
@[simp] theorem roundStep_oidx (f : Word → Word → Word → Word) (k : Word) (s : State) :
    (roundStep f k s).oidx = s.oidx := rfl
@[simp] theorem roundStep_phase (f : Word → Word → Word → Word) (k : Word) (s : State) :
    (roundStep f k s).phase = if s.t.val < 79 then s.phase else .fold := rfl
@[simp] theorem roundStep_pstage (f : Word → Word → Word → Word) (k : Word) (s : State) :
    (roundStep f k s).pstage = s.pstage := rfl
@[simp] theorem roundStep_ret (f : Word → Word → Word → Word) (k : Word) (s : State) :
    (roundStep f k s).ret = s.ret := rfl
@[simp] theorem roundStep_err (f : Word → Word → Word → Word) (k : Word) (s : State) :
    (roundStep f k s).err = s.err := rfl
@[simp] theorem roundStep_errCode (f : Word → Word → Word → Word) (k : Word) (s : State) :
    (roundStep f k s).errCode = s.errCode := rfl
@[simp] theorem roundStep_inputs (f : Word → Word → Word → Word) (k : Word) (s : State) :
    (roundStep f k s).inputs = s.inputs := rfl
@[simp] theorem roundStep_delivered (f : Word → Word → Word → Word) (k : Word) (s : State) :
    (roundStep f k s).delivered = s.delivered := rfl
@[simp] theorem roundStep_vars (f : Word → Word → Word → Word) (k : Word) (s : State) :
    (roundStep f k s).vars = roundWith f k s.w[s.t.val] s.vars := rfl

/-! The round variables together. -/

@[simp] theorem raiseFault_vars (code : BitVec 2) (s : State) : (raiseFault code s).vars = s.vars := rfl
@[simp] theorem leaveToIdle_vars (s : State) : (leaveToIdle s).vars = s.vars := rfl
@[simp] theorem startCompression_vars (r : Ret) (s : State) : (startCompression r s).vars = s.vars := rfl
@[simp] theorem setVars_vars (v : RoundVars) (s : State) : (s.setVars v).vars = v := rfl
@[simp] theorem deliver_vars (s : State) : (deliver s).vars = s.vars := rfl
@[simp] theorem advanceT_vars (last : Phase) (s : State) : (advanceT last s).vars = s.vars := rfl
@[simp] theorem advanceOidx_vars (s : State) : (advanceOidx s).vars = s.vars := rfl
@[simp] theorem passInput_vars (acted : Bool) (s : State) : (passInput acted s).vars = s.vars := rfl

end Sys2Proof.Machine
end

