-- ==== Sys2Proof/Laws/Ops.lean ====
section
/-! SUPPORT. What each shared operation can do, said once: cite these, do not unfold the operation. -/
namespace Sys2Proof.Machine

/-- Both parts of a sequenced step answer a next state. -/
theorem andThen_eq_next {r : Result} {k : State → Result} {t : State} :
    andThen r k = .next t ↔ ∃ s, r = .next s ∧ k s = .next t := by
  cases r <;> simp [andThen]

@[simp] theorem andThen_next (s : State) (k : State → Result) : andThen (.next s) k = k s := rfl

/-- A command is executed where the spec accepts it. -/
theorem acceptCommand_of_accepting {k : State → Result} {s : State}
    (h : s.phase = .idle ∨ s.phase = .absorb ∨ s.phase = .out) : acceptCommand k s = k s := by
  rcases h with h | h | h <;> simp [acceptCommand, h]

/-- A command in FAULT is discarded, one on the port of a busy engine waits. -/
theorem acceptCommand_of_not_accepting {k : State → Result} {s : State}
    (h : s.phase ≠ .idle ∧ s.phase ≠ .absorb ∧ s.phase ≠ .out) : acceptCommand k s = .next s := by
  cases hp : s.phase <;> simp_all [acceptCommand]

/-- Everything `acceptCommand` can do. -/
theorem acceptCommand_cases (k : State → Result) (s : State) :
    (acceptCommand k s = .next s ∧ s.phase ≠ .idle ∧ s.phase ≠ .absorb ∧ s.phase ≠ .out) ∨
    (acceptCommand k s = k s ∧ (s.phase = .idle ∨ s.phase = .absorb ∨ s.phase = .out)) := by
  cases hp : s.phase <;> simp [acceptCommand, hp]

/-- The chunk with one byte more. -/
def withByte (v : Byte) (s : State) (h : s.fill.val < 64) : State :=
  { s with chunk := s.chunk.set s.fill.val v h, fill := ⟨s.fill.val + 1, Nat.succ_lt_succ h⟩ }

theorem pushByte_of_room {v : Byte} {r : Ret} {s : State} (h : s.fill.val + 1 < 64) :
    pushByte v r s = .next (withByte v s (by omega)) := by
  have h1 : s.fill.val < 64 := by omega
  have h2 : ¬ s.fill.val + 1 = 64 := by omega
  simp [pushByte, withByte, h1, h2]

theorem pushByte_of_last {v : Byte} {r : Ret} {s : State} (h : s.fill.val + 1 = 64) :
    pushByte v r s = .next (startCompression r (withByte v s (by omega))) := by
  have h1 : s.fill.val < 64 := by omega
  simp [pushByte, withByte, h1, h]

theorem pushByte_of_full {v : Byte} {r : Ret} {s : State} (h : s.fill.val = 64) :
    pushByte v r s = .fault .chunkIndex := by
  simp [pushByte, h]

/-- Everything `pushByte` can do when it answers a next state. -/
theorem pushByte_cases {v : Byte} {r : Ret} {s t : State} (h : pushByte v r s = .next t) :
    ∃ hf : s.fill.val < 64,
      (s.fill.val + 1 < 64 ∧ t = withByte v s hf) ∨
      (s.fill.val + 1 = 64 ∧ t = startCompression r (withByte v s hf)) := by
  have hle := s.fill.isLt
  by_cases h1 : s.fill.val + 1 < 64
  · rw [pushByte_of_room h1] at h
    exact ⟨by omega, .inl ⟨h1, by cases h; rfl⟩⟩
  · by_cases h2 : s.fill.val + 1 = 64
    · rw [pushByte_of_last h2] at h
      exact ⟨by omega, .inr ⟨h2, by cases h; rfl⟩⟩
    · rw [pushByte_of_full (by omega)] at h
      cases h

/-- Reading the chunk after a byte is written: the byte at `fill`, the old byte elsewhere. -/
theorem withByte_chunk_get {v : Byte} {s : State} (h : s.fill.val < 64) (k : Fin 64) :
    (withByte v s h).chunk[k] = if k.val = s.fill.val then v else s.chunk[k] := by
  by_cases hk : k.val = s.fill.val
  · simp [withByte, hk]
  · simp [withByte, hk, Ne.symm hk]

theorem nextT_of_lt {s : State} (h : s.t.val < 79) : nextT s = ⟨s.t.val + 1, Nat.succ_lt_succ h⟩ := by
  simp [nextT, h]

theorem nextT_of_last {s : State} (h : s.t.val = 79) : nextT s = s.t := by
  simp [nextT, h]

theorem advanceT_of_lt {last : Phase} {s : State} (h : s.t.val < 79) :
    advanceT last s = { s with t := ⟨s.t.val + 1, Nat.succ_lt_succ h⟩ } := by
  simp [advanceT, nextT, h]

theorem advanceT_of_last {last : Phase} {s : State} (h : s.t.val = 79) :
    advanceT last s = { s with phase := last } := by
  simp [advanceT, nextT, h]

/-- Everything `advanceT` can do. -/
theorem advanceT_cases (last : Phase) (s : State) :
    (∃ h : s.t.val < 79, advanceT last s = { s with t := ⟨s.t.val + 1, Nat.succ_lt_succ h⟩ }) ∨
    (s.t.val = 79 ∧ advanceT last s = { s with phase := last }) := by
  by_cases h : s.t.val < 79
  · exact .inl ⟨h, advanceT_of_lt h⟩
  · have h9 : s.t.val = 79 := by omega
    exact .inr ⟨h9, advanceT_of_last h9⟩

/-- Everything `advanceOidx` can do. -/
theorem advanceOidx_cases (s : State) :
    (∃ h : s.oidx.val < 19, advanceOidx s = { s with oidx := ⟨s.oidx.val + 1, Nat.succ_lt_succ h⟩ }) ∨
    (s.oidx.val = 19 ∧ advanceOidx s = { s with phase := .idle }) := by
  by_cases h : s.oidx.val < 19
  · exact .inl ⟨h, by simp [advanceOidx, nextOidx, h]⟩
  · have h9 : s.oidx.val = 19 := by omega
    exact .inr ⟨h9, by simp [advanceOidx, nextOidx, h9]⟩

/-- Everything an edge can do to what the host drives. -/
theorem inputsAfter_cases (acted : Bool) (l : List Drive) :
    inputsAfter acted l = l ∨ inputsAfter acted l = l.tail := by
  cases l with
  | nil => exact .inl rfl
  | cons d ds => cases hb : (d.hold && !acted) <;> simp [inputsAfter, hb]

/-- An entry that has acted is gone. -/
@[simp] theorem inputsAfter_true (l : List Drive) : inputsAfter true l = l.tail := by
  cases l <;> simp [inputsAfter]

/-- A held entry that has not acted stays. -/
theorem inputsAfter_held {d : Drive} {ds : List Drive} (h : d.hold = true) :
    inputsAfter false (d :: ds) = d :: ds := by
  simp [inputsAfter, h]

/-- A padder step is a `pushByte` on the state with the next stage. -/
theorem padStep_eq (v : Byte) (s : State) :
    padStep v s = pushByte v (padRet s) { s with pstage := nextPStage s } := rfl

/-- A round changes the round variables, then advances `t`. -/
theorem roundStep_eq (f : Word → Word → Word → Word) (k : Word) (s : State) :
    roundStep f k s = advanceT .fold (s.setVars (roundWith f k s.w[s.t.val] s.vars)) := rfl

/-- Everything a step can do when it answers a next state. -/
theorem edge_cases {s t : State} (h : edge s = .next t) :
    (pinEvent s = some .reset ∧ t = leaveToIdle (passInput true s)) ∨
    (pinEvent s ≠ some .reset ∧ ∃ i, microOp s = some i ∧ exec i (passInput false s) = .next t) ∨
    (pinEvent s ≠ some .reset ∧ microOp s = none ∧ hostEdge s = .next t) := by
  unfold edge at h
  split at h
  · rename_i hr
    refine .inl ⟨hr, ?_⟩
    simp only [exec, execReset] at h
    cases h; rfl
  · rename_i hr
    split at h
    · rename_i i hi
      exact .inr (.inl ⟨hr, i, hi, h⟩)
    · rename_i hn
      exact .inr (.inr ⟨hr, hn, h⟩)

/-- Everything the host's turn can do when it answers a next state. -/
theorem hostEdge_cases {s t : State} (h : hostEdge s = .next t) :
    (pinEvent s ≠ some .take ∧ s.pins.cmdValid = false ∧ t = passInput false s) ∨
    (pinEvent s = some .take ∧ s.pins.cmdValid = false ∧ exec .take (passInput true s) = .next t) ∨
    (pinEvent s ≠ some .take ∧ s.pins.cmdValid = true ∧ transfer s.pins.cmd (passInput true s) = .next t) ∨
    (pinEvent s = some .take ∧ s.pins.cmdValid = true ∧
      ∃ u, exec .take (passInput true s) = .next u ∧ transfer s.pins.cmd u = .next t) := by
  by_cases hp : pinEvent s = some .take <;> cases hc : s.pins.cmdValid <;>
    simp only [hostEdge, hp, hc, decide_true, decide_false, Bool.or_true, Bool.or_false,
      if_true, if_false, andThen_eq_next, Bool.false_eq_true, reduceCtorEq, false_and, true_and, ne_eq,
      not_true_eq_false, not_false_eq_true, false_or, or_false] at h ⊢
  · exact h
  · exact h
  · cases h; rfl
  · simpa using h

/-- A transfer is the decoded command's execution, or the fault of an illegal word. -/
theorem transfer_cases (w : CmdWord) (s : State) :
    (∃ i, decode? (.cmd w) = some i ∧ transfer w s = exec i s) ∨
    (decode? (.cmd w) = none ∧ transfer w s = execIllegalWord s) := by
  unfold transfer
  split
  · rename_i i h
    exact .inl ⟨i, h, rfl⟩
  · rename_i h
    exact .inr ⟨h, rfl⟩

end Sys2Proof.Machine
end

