-- ==== Sys2Proof/Laws/PerInstr.lean ====
section
/-! SUPPORT. A law of every instruction as syntax, one lemma per constructor: the encoder writes a
well-formed word of one of the three formats. -/
namespace Sys2Proof.Laws.EncodesWellFormed

/-- The word an instruction is encoded in is well-formed. -/
def Statement (i : Instr) : Prop := (encode i).wf = true

theorem init : Statement .init := by unfold Statement; decide
theorem data (b : Byte) : Statement (.data b) := by unfold Statement; revert b; decide
theorem final : Statement .final := by unfold Statement; decide
theorem take : Statement .take := by unfold Statement; decide
theorem reset : Statement .reset := by unfold Statement; decide
theorem padmark : Statement .padmark := by unfold Statement; decide
theorem padzero : Statement .padzero := by unfold Statement; decide
theorem padlen : Statement .padlen := by unfold Statement; decide
theorem wload : Statement .wload := by unfold Statement; decide
theorem wexp : Statement .wexp := by unfold Statement; decide
theorem binit : Statement .binit := by unfold Statement; decide
theorem rnd0 : Statement .rnd0 := by unfold Statement; decide
theorem rnd1 : Statement .rnd1 := by unfold Statement; decide
theorem rnd2 : Statement .rnd2 := by unfold Statement; decide
theorem rnd3 : Statement .rnd3 := by unfold Statement; decide
theorem fold : Statement .fold := by unfold Statement; decide

end Sys2Proof.Laws.EncodesWellFormed
end

