-- ==== Sys2Proof/Tests/Slice0.lean ====
section
/-! SUPPORT. Small tests. Expected results are the spec's: the encoding tables of spec/30_encoding.md and
the vectors V1 to V83 of spec/95_test_vectors.md. Then, for each statement that has hypotheses, a state
and operands that meet them. -/
namespace Sys2Proof.Tests

open Sys2Proof.Machine Sys2Proof.Safety

/-! ### Helpers -/

/-- The next state of a step, where it answers one. -/
def nextOf (r : Result) : Option State :=
  match r with
  | .next s => some s
  | .fault _ => none
  | .refused _ => none

/-- One field of the next state. -/
def after {α : Type} (r : Result) (f : State → α) : Option α := (nextOf r).map f

/-- The model's stop, where a step stops. -/
def stopOf (r : Result) : Option Fault :=
  match r with
  | .next _ => none
  | .fault f => some f
  | .refused _ => none

/-- A state in a phase. -/
def inPhase (p : Phase) : State := { State.reset with phase := p }

/-- A padder state. -/
def padAt (st : PStage) (n : Fin 65) (len : Length) : State :=
  { State.reset with phase := .pad, pstage := st, fill := n, ml := len }

/-- A state in ABSORB with `n` bytes in the chunk. -/
def absorbAt (n : Fin 65) (len : Length) : State :=
  { State.reset with phase := .absorb, fill := n, ml := len }

/-- A state in SCHED at index `n`. -/
def schedAt (n : Fin 80) : State := { State.reset with phase := .sched, t := n, fill := 64 }

/-- A state in ROUND at index `n`, with round variables and the schedule word of that index. -/
def roundAt (n : Fin 80) (v : RoundVars) (wt : Word) : State :=
  { (State.reset.setVars v) with phase := .round, t := n, fill := 64, w := State.reset.w.set n.val wt }

/-- A state in OUT with the digest of "abc" (KA2). -/
def outAt (n : Fin 20) : State :=
  { State.reset with phase := .out, oidx := n
                     h := #v[0xa9993e36#32, 0x4706816a#32, 0xba3e2571#32, 0x7850c26c#32, 0x9cd0d89d#32] }

/-- A state whose host drives the given levels. -/
def driving (s : State) (rst cmdValid : Bool) (w : CmdWord) (outReady : Bool) : State :=
  { s with inputs := [⟨⟨rst, cmdValid, w, outReady⟩, false⟩] }

/-! ### Well-formedness: an ill-formed word for each check -/

/-- R84: INIT with operand 1; FINAL with operand 1; `op = 3`. -/
theorem test_wf_refuses_command_words :
    (TableWord.cmd 0x001#10).wf = false ∧ (TableWord.cmd 0x201#10).wf = false ∧
    (TableWord.cmd 0x300#10).wf = false ∧ (TableWord.cmd 0x100#10).wf = true := by decide

/-- R94: only `out_valid`; only `out_ready`. -/
theorem test_wf_refuses_pin_words :
    (TableWord.pin 0b010#3).wf = false ∧ (TableWord.pin 0b001#3).wf = false ∧
    (TableWord.pin 0b011#3).wf = true := by decide

/-- R92: phase IDLE; phase OUT; the unused `pstage` 3; `s = 1` with `t < 16`. -/
theorem test_wf_refuses_selectors :
    (TableWord.seq 0b000000000#9).wf = false ∧ (TableWord.seq 0b011100000#9).wf = false ∧
    (TableWord.seq 0b001011000#9).wf = false ∧ (TableWord.seq 0b001100010#9).wf = false ∧
    (TableWord.seq 0b001000000#9).wf = true := by decide

/-! ### Decoding: words written out bit by bit from the tables of R81, R92, R94 -/

/-- `{op, operand}`; `0x161` is `DATA 'a'` (program P2). -/
theorem test_decode_commands :
    decode (.cmd 0b0000000000#10) = .ok .init ∧ decode (.cmd 0b0101100001#10) = .ok (.data 0x61#8) ∧
    decode (.cmd 0b0110000000#10) = .ok (.data 0x80#8) ∧ decode (.cmd 0b1000000000#10) = .ok .final := by decide

/-- The decode vectors of spec/95 section 5.1 that are illegal. -/
theorem test_decode_illegal :
    decode (.cmd 0x07F#10) = .error .initOperand ∧ decode (.cmd 0x2FF#10) = .error .finalOperand ∧
    decode (.cmd 0x300#10) = .error .reservedOp ∧ decode (.cmd 0x3FF#10) = .error .reservedOp := by decide

/-- `{rst, out_valid, out_ready}`. -/
theorem test_decode_pins :
    decode (.pin 0b011#3) = .ok .take ∧ decode (.pin 0b100#3) = .ok .reset ∧ decode (.pin 0b111#3) = .ok .reset ∧
    decode (.pin 0b010#3) = .error .noPinEvent := by decide

/-- `{phase(4), pstage(2), s(2), x(1)}`, one word for each padder and schedule row. -/
theorem test_decode_padder_and_schedule :
    decode (.seq 0b0010_00_00_0#9) = .ok .padmark ∧ decode (.seq 0b0010_01_10_1#9) = .ok .padzero ∧
    decode (.seq 0b0010_10_11_1#9) = .ok .padlen ∧ decode (.seq 0b0011_10_00_0#9) = .ok .wload ∧
    decode (.seq 0b0011_00_00_1#9) = .ok .wexp := by decide

/-- One word for each updater row, and a phase without a micro-operation. -/
theorem test_decode_updater :
    decode (.seq 0b0100_01_00_1#9) = .ok .binit ∧ decode (.seq 0b0101_00_00_1#9) = .ok .rnd0 ∧
    decode (.seq 0b0101_10_01_1#9) = .ok .rnd1 ∧ decode (.seq 0b0101_01_10_1#9) = .ok .rnd2 ∧
    decode (.seq 0b0101_00_11_1#9) = .ok .rnd3 ∧ decode (.seq 0b0110_10_11_1#9) = .ok .fold ∧
    decode (.seq 0b1000_00_00_0#9) = .error .noMicroOp := by decide

/-- R92: the eleven rows do not overlap. -/
theorem test_selector_rows_do_not_overlap :
    selRows.Pairwise (fun r q => r.pattern &&& (r.mask &&& q.mask) ≠ q.pattern &&& (r.mask &&& q.mask)) := by decide

/-- Log 10: no selector that names a micro-operation is a legal command word. -/
theorem test_formats_do_not_overlap :
    ∀ w : SelWord, (decode? (.seq w)).isSome → cmdWordWF (w.setWidth 10) = false := by decide

/-- The table's words in whole bytes. -/
theorem test_decode_table_words :
    decodeTableWord 16 0x1FF = some (.data 0xFF#8) ∧ decodeTableWord 16 0x0A6 = some .rnd3 ∧
    decodeTableWord 8 0x3 = some .take ∧ decodeTableWord 16 0x300 = none := by decide

/-- A placed word is what the next step runs: INIT, TAKE, PADLEN, WEXP. -/
theorem test_placed_words_run :
    after (step (State.reset.withFetchWord 16 0x000)) State.phase = some .absorb ∧
    after (step (State.reset.withFetchWord 8 0x3)) (fun s => s.oidx.val) = some 1 ∧
    after (step (State.reset.withFetchWord 16 0x050)) (fun s => s.fill.val) = some 57 ∧
    after (step (State.reset.withFetchWord 16 0x061)) (fun s => s.t.val) = some 17 := by decide

/-- R97, programs P2 and P6: the encodings of `DIGEST "abc"`, of its MSG, of RAW and REP. -/
theorem test_notation :
    script (messageLines [0x61#8, 0x62#8, 0x63#8]) =
      [commandEntry 0x000#10, commandEntry 0x161#10, commandEntry 0x162#10, commandEntry 0x163#10, commandEntry 0x200#10] ∧
    msgLines "XY" = [.data 0x58#8, .data 0x59#8] ∧ script (repLines 2 0xFF#8) = [commandEntry 0x1FF#10, commandEntry 0x1FF#10] ∧
    (digestLines []).length = 22 := by decide

/-- Log 17: a RESET line acts at the next step, in PAD too, and does not wait for the engine. -/
theorem test_reset_line_does_not_wait :
    after (step { padAt .mark 1 8 with inputs := script [.reset, .init] }) (fun s => (s.phase, s.inputs)) =
      some (.idle, script [.init]) := by decide

/-! ### Primitives (spec/95 sections 2.1, 2.2, 2.4) -/

theorem test_rotl : rotl 0x12345678#32 5 = 0x468ACF02#32 ∧ rotl 0x80000000#32 1 = 1#32 ∧
    rotl 0x12345678#32 30 = 0x048D159E#32 := by decide

theorem test_be32 : be32 0x61#8 0x62#8 0x63#8 0x80#8 = 0x61626380#32 ∧
    be32Bytes 0xA9993E36#32 = [0xa9#8, 0x99#8, 0x3e#8, 0x36#8] := by decide

theorem test_be64 : be64Bytes 0x0123456789ABCDEF#64 =
    [0x01#8, 0x23#8, 0x45#8, 0x67#8, 0x89#8, 0xab#8, 0xcd#8, 0xef#8] := by decide

theorem test_boolean_functions :
    fSel 0xF0F0F0F0#32 0xAAAAAAAA#32 0x55555555#32 = 0xA5A5A5A5#32 ∧
    fXor 0xF0F0F0F0#32 0xAAAAAAAA#32 0x55555555#32 = 0x0F0F0F0F#32 ∧
    fMaj 0x00000000#32 0x12345678#32 0x9ABCDEF0#32 = 0x12345670#32 := by decide

/-! ### Commands (spec/95 section 5.1) -/

/-- V3: INIT in OUT. -/
theorem test_init_in_out :
    after (exec .init (outAt 2)) (fun s => (s.phase, s.h[4], s.ml, s.fill.val, outData s)) =
      some (.absorb, 0xC3D2E1F0#32, 0, 0, 0x00#8) := by decide

/-- V6: the DATA that fills the chunk. -/
theorem test_data_fills_chunk :
    after (exec (.data 0xFF#8) (absorbAt 63 0x1F8)) (fun s => (s.chunk[63], s.fill.val, s.ml, s.ret, s.t.val, s.phase)) =
      some (0xFF#8, 64, 0x200, .absorb, 0, .sched) := by decide

/-- V7: `ml` wraps. -/
theorem test_data_length_wraps :
    after (exec (.data 0x01#8) (absorbAt 5 0xFFFFFFFFFFFFFFF8)) (fun s => (s.chunk[5], s.fill.val, s.ml, s.phase)) =
      some (0x01#8, 6, 0, .absorb) := by decide

/-- V8. -/
theorem test_final :
    after (exec .final (absorbAt 0 0)) (fun s => (s.pstage, s.phase, cmdReady s)) = some (.mark, .pad, false) := by decide

/-- V10, V11, V14: the three faults. -/
theorem test_protocol_faults :
    after (transfer 0x161#10 State.reset) (fun s => (s.err, s.errCode, s.phase)) = some (true, 2#2, .fault) ∧
    after (transfer 0x200#10 State.reset) (fun s => (s.err, s.errCode, s.phase)) = some (true, 3#2, .fault) ∧
    after (transfer 0x3FF#10 (absorbAt 1 8)) (fun s => (s.err, s.errCode, s.phase, s.fill.val, s.ml)) =
      some (true, 1#2, .fault, 1, 8) := by decide

/-- V19, V20: discarded in FAULT. -/
theorem test_discarded_in_fault :
    after (transfer 0x000#10 { inPhase .fault with err := true, errCode := 2 }) (fun s => (s.phase, s.errCode)) =
      some (.fault, 2#2) ∧
    after (transfer 0x3FF#10 { inPhase .fault with err := true, errCode := 2 }) (fun s => (s.phase, s.errCode)) =
      some (.fault, 2#2) := by decide

/-- V22: a command held while the engine is busy. -/
theorem test_command_waits :
    after (step { schedAt 3 with inputs := [commandEntry 0x162#10] }) (fun s => (s.t.val, s.inputs)) =
      some (4, [commandEntry 0x162#10]) := by decide

/-! ### Padder (spec/95 section 5.2) -/

/-- V33, V34: the marker at 55 and at 56. -/
theorem test_padmark_stage :
    after (exec .padmark (padAt .mark 55 0)) (fun s => (s.chunk[55], s.fill.val, s.pstage)) = some (0x80#8, 56, .len) ∧
    after (exec .padmark (padAt .mark 56 0)) (fun s => (s.chunk[56], s.fill.val, s.pstage)) = some (0x80#8, 57, .zero) := by
  decide

/-- V35: the marker fills the chunk. -/
theorem test_padmark_fills_chunk :
    after (exec .padmark (padAt .mark 63 0)) (fun s => (s.fill.val, s.pstage, s.ret, s.t.val, s.phase)) =
      some (64, .zero, .pad, 0, .sched) := by decide

/-- V37, V38. -/
theorem test_padzero :
    after (exec .padzero (padAt .zero 55 0)) (fun s => (s.fill.val, s.pstage, s.phase)) = some (56, .len, .pad) ∧
    after (exec .padzero (padAt .zero 63 0)) (fun s => (s.fill.val, s.pstage, s.ret, s.phase)) =
      some (64, .zero, .pad, .sched) := by decide

/-- V41, V42. -/
theorem test_padlen :
    after (exec .padlen (padAt .len 62 0x1C0)) (fun s => (s.chunk[62], s.fill.val, s.phase)) = some (0x01#8, 63, .pad) ∧
    after (exec .padlen (padAt .len 63 0x1C0)) (fun s => (s.chunk[63], s.fill.val, s.ret, s.phase)) =
      some (0xC0#8, 64, .out, .sched) := by decide

/-- V43: the most significant length byte comes first. -/
theorem test_padlen_first_byte :
    after (exec .padlen (padAt .len 56 0x0123456789ABCDEF)) (fun s => s.chunk[56]) = some 0x01#8 := by decide

/-! ### Schedule and updater (spec/95 sections 4.2 and 5.3) -/

/-- V51. -/
theorem test_wload :
    after (exec .wload { schedAt 15 with chunk := State.reset.chunk.set 63 0x18#8 }) (fun s => (s.w[15], s.t.val)) =
      some (0x18#32, 16) := by decide

/-- V53: rotation, not shift. -/
theorem test_wexp_rotates :
    after (exec .wexp { schedAt 16 with w := State.reset.w.set 13 0x80000000#32 }) (fun s => (s.w[16], s.t.val)) =
      some (1#32, 17) := by decide

/-- V55: the last schedule word of "abc". -/
theorem test_wexp_last :
    after (exec .wexp { schedAt 79 with
      w := (((State.reset.w.set 76 0xe6e60b69#32).set 71 0x458546f4#32).set 65 0x000f0000#32).set 63 0x627b49a1#32 })
      (fun s => (s.w[79], s.t.val, s.phase)) = some (0x822E0879#32, 79, .binit) := by decide

/-- V57. -/
theorem test_binit :
    after (exec .binit { inPhase .binit with h := #v[0xf4286818#32, 0xc37b27ae#32, 0x0408f581#32, 0x84677148#32, 0x4a566572#32] })
      (fun s => (s.vars, s.t.val, s.phase)) =
      some (⟨0xf4286818#32, 0xc37b27ae#32, 0x0408f581#32, 0x84677148#32, 0x4a566572#32⟩, 0, .round) := by decide

/-- Spec/95 section 4.2, t = 19: the last round of stage 0. -/
theorem test_rnd0 :
    after (exec .rnd0 (roundAt 19 ⟨0xdc64901d#32, 0x82aa6728#32, 0xd3a49608#32, 0xc82f758b#32, 0xc65afb9d#32⟩ 0x85898e01#32))
      (fun s => (s.vars, s.t.val)) =
      some (⟨0xfd9e1d7d#32, 0xdc64901d#32, 0x20aa99ca#32, 0xd3a49608#32, 0xc82f758b#32⟩, 20) := by decide

/-- Spec/95 section 4.2, t = 20. -/
theorem test_rnd1 :
    after (exec .rnd1 (roundAt 20 ⟨0xfd9e1d7d#32, 0xdc64901d#32, 0x20aa99ca#32, 0xd3a49608#32, 0xc82f758b#32⟩ 0#32))
      State.vars = some ⟨0x1a37b0ca#32, 0xfd9e1d7d#32, 0x77192407#32, 0x20aa99ca#32, 0xd3a49608#32⟩ := by decide

/-- Spec/95 section 4.2, t = 40. -/
theorem test_rnd2 :
    after (exec .rnd2 (roundAt 40 ⟨0x32de1cba#32, 0x4c986405#32, 0xf718e5cf#32, 0x03d447f6#32, 0xf72eec32#32⟩ 0xd2e138c4#32))
      State.vars = some ⟨0xfc87dedf#32, 0x32de1cba#32, 0x53261901#32, 0xf718e5cf#32, 0x03d447f6#32⟩ := by decide

/-- Spec/95 section 4.2, t = 79. -/
theorem test_rnd3 :
    after (exec .rnd3 (roundAt 79 ⟨0x5738d5e1#32, 0x860d21cc#32, 0x681e6df6#32, 0xd8fdf6ad#32, 0xd7b9da25#32⟩ 0x822e0879#32))
      (fun s => (s.vars, s.t.val, s.phase)) =
      some (⟨0x42541b35#32, 0x5738d5e1#32, 0x21834873#32, 0x681e6df6#32, 0xd8fdf6ad#32⟩, 79, .fold) := by decide

/-- V63: each sum wraps on its own. -/
theorem test_fold_wraps :
    after (exec .fold { (State.reset.setVars ⟨1#32, 0#32, 0x80000000#32, 1#32, 0xffffffff#32⟩) with
      phase := .fold, ret := .out, fill := 64, oidx := 7
      h := #v[0xffffffff#32, 0#32, 0x80000000#32, 0x7fffffff#32, 1#32] })
      (fun s => (s.h, s.fill.val, s.oidx.val, s.phase)) =
      some (#v[0#32, 0#32, 0#32, 0x80000000#32, 0#32], 0, 0, .out) := by decide

/-! ### Serializer and reset (spec/95 sections 5.4 and 5.5) -/

/-- V72: a word boundary. -/
theorem test_take :
    after (exec .take (outAt 3)) (fun s => (s.delivered, s.oidx.val, outData s)) = some ([0x36#8], 4, 0x47#8) := by decide

/-- V73: the twentieth take. -/
theorem test_take_last :
    after (exec .take (outAt 19)) (fun s => (s.delivered, s.phase, outValid s, outData s)) =
      some ([0x9D#8], .idle, false, 0x00#8) := by decide

/-- V76: a take and DATA on the same edge. -/
theorem test_take_then_data :
    after (step (driving (outAt 19) false true 0x161#10 true)) (fun s => (s.delivered, s.errCode, s.phase)) =
      some ([0x9D#8], 2#2, .fault) := by decide

/-- V77: reset wins. -/
theorem test_reset_wins :
    after (step (driving (outAt 7) true true 0x000#10 true)) (fun s => (s.delivered, s.err, s.phase)) =
      some ([], false, .idle) := by decide

/-- V81: reset in the middle of a compression. -/
theorem test_reset_mid_compression :
    after (exec .reset { schedAt 37 with phase := .round }) (fun s => (s.phase, s.err, s.errCode)) =
      some (.idle, false, 0#2) := by decide

/-- I7: outside its selector a micro-operation has no step. -/
theorem test_not_selected :
    stopOf (exec .padmark State.reset) = some .notSelected ∧ stopOf (exec .wexp (schedAt 15)) = some .notSelected := by
  decide

/-! ### The digest function -/

/-- R85, spec/95 section 3: z and N at the padding boundary. -/
theorem test_zero_counts :
    zeroCount 55 = 0 ∧ zeroCount 56 = 63 ∧ zeroCount 0 = 55 ∧ chunkCount 55 = 1 ∧ chunkCount 56 = 2 ∧
    chunkCount 120 = 3 := by decide

/-- Spec/95 section 3: the column `S` (engine steps) with the commands added, and the 396 of R237. -/
theorem test_step_counts : stepsToOut 3 = 5 + 223 ∧ stepsToOut 56 = 58 + 396 ∧ padSteps 56 = 396 ∧ padSteps 3 = 223 := by
  decide

/-! ### Witnesses: for each statement with hypotheses, a state and operands that meet them -/

/-- The ends of the ranges of amounts and bit numbers in RotationLaws and BooleanFunctions. -/
theorem witness_RotationLaws : ((0 < 1 ∧ 1 < 32) ∧ (0 < 31 ∧ 31 < 32)) ∧ rotl 1#32 31 = 0x80000000#32 := by decide

theorem witness_BooleanFunctions : 31 < 32 ∧ (fMaj 0x80000000#32 0x80000000#32 0#32).getLsbD 31 = true := by decide

/-- Both ends of the range of zero counts and of message bytes in PaddedMessageLayout. -/
theorem witness_PaddedMessageLayout : 62 < zeroCount 56 ∧ 0 < zeroCount 0 ∧ 2 < [0x61#8, 0x62#8, 0x63#8].length := by decide

theorem witness_InitBeginsMessage :
    (inPhase .idle).phase = .idle ∧ (absorbAt 63 0x1F8).phase = .absorb ∧ (outAt 19).phase = .out := by decide

theorem witness_DataAppendsByte :
    ((absorbAt 62 0x1F0).phase = .absorb ∧ (absorbAt 62 0x1F0).fill.val + 1 < 64) ∧
    ((absorbAt 63 0x1F8).phase = .absorb ∧ (absorbAt 63 0x1F8).fill.val + 1 = 64) ∧
    State.reset.phase = .idle ∧ (outAt 0).phase = .out := by decide

theorem witness_FinalStartsPadding :
    (absorbAt 63 0x1F8).phase = .absorb ∧ State.reset.phase = .idle ∧ (outAt 0).phase = .out := by decide

theorem witness_OutOfSequenceFaults : State.reset.phase = .idle ∧ (outAt 19).phase = .out := by decide

/-- The reserved words at the ends of the three ranges, and the three phases. -/
theorem witness_IllegalWordFaults :
    (∃ r, decode (.cmd 0x001#10) = .error r) ∧ (∃ r, decode (.cmd 0x0FF#10) = .error r) ∧
    (∃ r, decode (.cmd 0x201#10) = .error r) ∧ (∃ r, decode (.cmd 0x2FF#10) = .error r) ∧
    (∃ r, decode (.cmd 0x300#10) = .error r) ∧ (∃ r, decode (.cmd 0x3FF#10) = .error r) ∧
    State.reset.phase = .idle ∧ (absorbAt 1 8).phase = .absorb ∧ (outAt 0).phase = .out :=
  ⟨⟨.initOperand, by decide⟩, ⟨.initOperand, by decide⟩, ⟨.finalOperand, by decide⟩, ⟨.finalOperand, by decide⟩,
    ⟨.reservedOp, by decide⟩, ⟨.reservedOp, by decide⟩, by decide, by decide, by decide⟩

theorem witness_CommandInFaultDiscarded :
    (driving (inPhase .fault) false true 0x000#10 false).phase = .fault ∧
    (driving (inPhase .fault) false true 0x000#10 false).pins.rst = false := by decide

/-- The four phases in which a command transfers. -/
theorem witness_TransferPriority :
    cmdReady State.reset = true ∧ cmdReady (absorbAt 0 0) = true ∧ cmdReady (outAt 0) = true ∧
    cmdReady (inPhase .fault) = true := by decide

theorem witness_CommandWaitsWhileBusy :
    busy { schedAt 3 with inputs := [commandEntry 0x162#10] } = true ∧
    (nextOf (step { schedAt 3 with inputs := [commandEntry 0x162#10] })).isSome := by decide

/-- Both clauses at their ends: `fill = 0` and 62, and `fill = 63`. -/
theorem witness_PadmarkAppendsMarker :
    ((padAt .mark 0 0).phase = .pad ∧ (padAt .mark 0 0).pstage = .mark ∧ (padAt .mark 0 0).fill.val + 1 < 64) ∧
    ((padAt .mark 62 0).phase = .pad ∧ (padAt .mark 62 0).fill.val + 1 < 64) ∧
    ((padAt .mark 63 0).phase = .pad ∧ (padAt .mark 63 0).fill.val + 1 = 64) := by decide

theorem witness_PadzeroAppendsZero :
    ((padAt .zero 0 0).phase = .pad ∧ (padAt .zero 0 0).pstage = .zero ∧ (padAt .zero 0 0).fill.val + 1 < 64) ∧
    ((padAt .zero 62 0).phase = .pad ∧ (padAt .zero 62 0).fill.val + 1 < 64) ∧
    ((padAt .zero 63 0).phase = .pad ∧ (padAt .zero 63 0).fill.val + 1 = 64) := by decide

theorem witness_PadlenAppendsLengthByte :
    ((padAt .len 56 0x18).phase = .pad ∧ (padAt .len 56 0x18).pstage = .len ∧ 56 ≤ (padAt .len 56 0x18).fill.val ∧
      (padAt .len 56 0x18).fill.val + 1 < 64) ∧
    ((padAt .len 63 0x18).phase = .pad ∧ (padAt .len 63 0x18).fill.val + 1 = 64) := by decide

theorem witness_WloadLoadsChunkWord :
    ((schedAt 0).t.val < 16 ∧ (schedAt 0).phase = .sched) ∧ ((schedAt 15).t.val < 16 ∧ (schedAt 15).phase = .sched) := by
  decide

theorem witness_WexpDerivesWord :
    ((schedAt 16).phase = .sched ∧ 16 ≤ (schedAt 16).t.val ∧ (schedAt 16).t.val < 79) ∧
    ((schedAt 78).phase = .sched ∧ (schedAt 78).t.val < 79) ∧ ((schedAt 79).phase = .sched ∧ (schedAt 79).t.val = 79) := by
  decide

/-- At the two ends of the range of `t`: a word no tap reads, and the nearest and the farthest tap. -/
theorem witness_ScheduleWindow :
    (16 ≤ (16 : Fin 80).val ∧ (0 : Fin 80).val + 16 = (16 : Fin 80).val ∧
      (∀ n : Fin 80, n ≠ 0 → State.reset.w[n] = (State.reset.w.set 0 1)[n]) ∧
      State.reset.w[(0 : Fin 80)] ≠ (State.reset.w.set 0 1)[(0 : Fin 80)]) ∧
    ((76 : Fin 80).val + 3 = (79 : Fin 80).val ∧
      (∀ n : Fin 80, n ≠ 76 → State.reset.w[n] = (State.reset.w.set 76 1)[n]) ∧
      State.reset.w[(76 : Fin 80)] ≠ (State.reset.w.set 76 1)[(76 : Fin 80)]) ∧
    (State.reset.w[13] = (State.reset.w.set 15 1)[13] ∧ State.reset.w[8] = (State.reset.w.set 15 1)[8] ∧
      State.reset.w[2] = (State.reset.w.set 15 1)[2] ∧ State.reset.w[0] = (State.reset.w.set 15 1)[0]) ∧
    ((schedAt 16).phase = .sched ∧ 16 ≤ (schedAt 16).t.val) := by decide

theorem witness_BinitCopiesRegisters : (inPhase .binit).phase = .binit := by decide

theorem witness_Rnd0Round :
    ((roundAt 0 (varsOf IV) 0).phase = .round ∧ (roundAt 0 (varsOf IV) 0).t.val ≤ 19) ∧
    ((roundAt 19 (varsOf IV) 0).phase = .round ∧ (roundAt 19 (varsOf IV) 0).t.val ≤ 19) := by decide

theorem witness_Rnd1Round :
    ((roundAt 20 (varsOf IV) 0).phase = .round ∧ 20 ≤ (roundAt 20 (varsOf IV) 0).t.val ∧ (roundAt 20 (varsOf IV) 0).t.val ≤ 39) ∧
    ((roundAt 39 (varsOf IV) 0).phase = .round ∧ 20 ≤ (roundAt 39 (varsOf IV) 0).t.val ∧ (roundAt 39 (varsOf IV) 0).t.val ≤ 39) := by
  decide

theorem witness_Rnd2Round :
    ((roundAt 40 (varsOf IV) 0).phase = .round ∧ 40 ≤ (roundAt 40 (varsOf IV) 0).t.val ∧ (roundAt 40 (varsOf IV) 0).t.val ≤ 59) ∧
    ((roundAt 59 (varsOf IV) 0).phase = .round ∧ 40 ≤ (roundAt 59 (varsOf IV) 0).t.val ∧ (roundAt 59 (varsOf IV) 0).t.val ≤ 59) := by
  decide

/-- With both clauses of the advance of `t`: 78 and 79. -/
theorem witness_Rnd3Round :
    ((roundAt 60 (varsOf IV) 0).phase = .round ∧ 60 ≤ (roundAt 60 (varsOf IV) 0).t.val) ∧
    ((roundAt 78 (varsOf IV) 0).phase = .round ∧ (roundAt 78 (varsOf IV) 0).t.val < 79) ∧
    ((roundAt 79 (varsOf IV) 0).phase = .round ∧ (roundAt 79 (varsOf IV) 0).t.val = 79) := by decide

theorem witness_FoldAddsRoundVariables :
    ({ inPhase .fold with ret := .absorb }.phase = .fold ∧ { inPhase .fold with ret := .absorb }.ret = .absorb) ∧
    ({ inPhase .fold with ret := .pad }.phase = .fold ∧ { inPhase .fold with ret := .pad }.ret = .pad) ∧
    ({ inPhase .fold with ret := .out }.phase = .fold ∧ { inPhase .fold with ret := .out }.ret = .out) := by decide

/-- In OUT at both ends of `oidx`, and a phase that is not OUT. -/
theorem witness_OutDataIsDigestByte :
    ((outAt 0).phase = .out ∧ (outAt 0).oidx.val = 4 * (0 : Fin 5).val + (0 : Fin 4).val) ∧
    ((outAt 19).phase = .out ∧ (outAt 19).oidx.val = 4 * (4 : Fin 5).val + (3 : Fin 4).val) ∧
    State.reset.phase ≠ .out := by decide

theorem witness_TakeDeliversByte :
    ((outAt 0).phase = .out ∧ (outAt 0).oidx.val < 19) ∧ ((outAt 18).phase = .out ∧ (outAt 18).oidx.val < 19) ∧
    ((outAt 19).phase = .out ∧ (outAt 19).oidx.val = 19) ∧ State.reset.phase ≠ .out := by decide

theorem witness_OutDataStable :
    (outAt 5).phase = .out ∧ (outAt 5).pins.rst = false ∧ (outAt 5).pins.cmdValid = false ∧
    (outAt 5).pins.outReady = false := by decide

/-- At the last byte and before it; with INIT and with another word. -/
theorem witness_TakeAndCommandSameEdge :
    ((driving (outAt 5) false true 0x000#10 true).phase = .out ∧ (driving (outAt 5) false true 0x000#10 true).pins.rst = false ∧
      (driving (outAt 5) false true 0x000#10 true).pins.cmdValid = true ∧
      (driving (outAt 5) false true 0x000#10 true).pins.outReady = true ∧
      (driving (outAt 5) false true 0x000#10 true).pins.cmd = 0x000#10) ∧
    ((driving (outAt 19) false true 0x161#10 true).phase = .out ∧ (driving (outAt 19) false true 0x161#10 true).oidx.val = 19 ∧
      (driving (outAt 19) false true 0x161#10 true).pins.cmd ≠ 0x000#10) := by decide

theorem witness_ResetWritesThree : (driving (schedAt 37) true false 0 false).pins.rst = true := by decide

theorem witness_PortsAfterReset : State.reset = State.reset ∨ (∃ s, exec .reset s = .next State.reset) := .inl rfl

theorem witness_PortsAfterReset_by_step : ∃ s t, exec .reset s = .next t ∧ s.phase = .fault :=
  ⟨inPhase .fault, _, rfl, rfl⟩

/-- A state for each clause with hypotheses; the fourth is met by those of the third and the fifth. -/
theorem witness_StepRunsDecodedInstruction :
    decode (.pin (pinWord (driving State.reset true false 0 false))) = .ok .reset ∧
    ((schedAt 79).pins.rst = false ∧ decode (.seq (selector (schedAt 79))) = .ok .wexp) ∧
    ((driving State.reset false true 0x000#10 false).pins.rst = false ∧
      cmdReady (driving State.reset false true 0x000#10 false) = true ∧
      (driving State.reset false true 0x000#10 false).pins.cmdValid = true ∧
      pinEvent (driving State.reset false true 0x000#10 false) ≠ some .take ∧
      decode (.cmd (driving State.reset false true 0x000#10 false).pins.cmd) = .ok .init) ∧
    ((driving (absorbAt 1 8) false true 0x001#10 true).pins.rst = false ∧
      cmdReady (driving (absorbAt 1 8) false true 0x001#10 true) = true ∧
      (driving (absorbAt 1 8) false true 0x001#10 true).pins.cmdValid = true ∧
      pinEvent (driving (absorbAt 1 8) false true 0x001#10 true) ≠ some .take ∧
      decode (.cmd (driving (absorbAt 1 8) false true 0x001#10 true).pins.cmd) = .error .initOperand ∧
      (driving (absorbAt 1 8) false true 0x001#10 true).phase ≠ .fault) ∧
    (decode (.pin (pinWord (driving (outAt 19) false false 0 true))) = .ok .take ∧
      (driving (outAt 19) false false 0 true).pins.cmdValid = false) ∧
    (State.reset.pins.rst = false ∧ cmdReady State.reset = true ∧ State.reset.pins.cmdValid = false ∧
      pinEvent State.reset ≠ some .take) := by decide

/-- Each row of the selector table at the ends of its range of `t`. -/
theorem witness_SelectorSelectsMicroOp :
    (schedAt 15).t.val ≤ 15 ∧ 16 ≤ (schedAt 16).t.val ∧ (roundAt 19 (varsOf IV) 0).t.val ≤ 19 ∧
    20 ≤ (roundAt 20 (varsOf IV) 0).t.val ∧ (roundAt 39 (varsOf IV) 0).t.val ≤ 39 ∧
    40 ≤ (roundAt 40 (varsOf IV) 0).t.val ∧ (roundAt 59 (varsOf IV) 0).t.val ≤ 59 ∧
    60 ≤ (roundAt 60 (varsOf IV) 0).t.val ∧ (padAt .mark 0 0).pstage = .mark ∧ (padAt .zero 0 0).pstage = .zero ∧
    (padAt .len 56 0).pstage = .len ∧ (inPhase .binit).phase = .binit ∧ (inPhase .fold).phase = .fold ∧
    (inPhase .idle).phase = .idle := by decide

theorem witness_OneAgentEnabled : busy (schedAt 0) = true ∧ busy State.reset = false := by decide

/-- A step that changes the phase by reset, by a command, by a take and by the engine. -/
theorem witness_PhaseTransitions :
    after (step (driving (schedAt 37) true false 0 false)) State.phase = some .idle ∧
    after (step (driving State.reset false true 0x000#10 false)) State.phase = some .absorb ∧
    after (step (driving State.reset false true 0x3FF#10 false)) State.phase = some .fault ∧
    after (step (driving (absorbAt 63 0x1F8) false true 0x100#10 false)) State.phase = some .sched ∧
    after (step (driving (absorbAt 0 0) false true 0x200#10 false)) State.phase = some .pad ∧
    after (step (padAt .len 63 0)) State.phase = some .sched ∧ after (step (schedAt 79)) State.phase = some .binit ∧
    after (step (inPhase .binit)) State.phase = some .round ∧
    after (step (roundAt 79 (varsOf IV) 0)) State.phase = some .fold ∧
    after (step { inPhase .fold with ret := .out }) State.phase = some .out ∧
    after (step (driving (outAt 19) false false 0 true)) State.phase = some .idle := by decide

theorem witness_AccessMatrixFrame : (nextOf (exec .wexp (schedAt 16))).isSome ∧ (nextOf (exec .take (outAt 0))).isSome := by
  decide

theorem witness_ErrIsSticky :
    CtlInv (driving { inPhase .fault with err := true, errCode := 2 } false true 0x000#10 false) ∧
    (nextOf (step (driving { inPhase .fault with err := true, errCode := 2 } false true 0x000#10 false))).isSome ∧
    (driving { inPhase .fault with err := true, errCode := 2 } false true 0x000#10 false).err = true ∧
    (driving { inPhase .fault with err := true, errCode := 2 } false true 0x000#10 false).pins.rst = false := by decide

/-- In every phase that the invariant constrains, at the ends of its range. -/
theorem witness_ControlInvariantKept :
    (CtlInv (driving (absorbAt 63 0x1F8) false true 0x100#10 false) ∧
      (nextOf (step (driving (absorbAt 63 0x1F8) false true 0x100#10 false))).isSome) ∧
    (CtlInv (padAt .mark 3 0x18) ∧ (nextOf (step (padAt .mark 3 0x18))).isSome) ∧
    (CtlInv (padAt .zero 55 0) ∧ (nextOf (step (padAt .zero 55 0))).isSome) ∧
    (CtlInv (padAt .len 56 0) ∧ (nextOf (step (padAt .len 56 0))).isSome) ∧
    (CtlInv (schedAt 79) ∧ (nextOf (step (schedAt 79))).isSome) :=
  ⟨⟨by decide, by decide⟩, ⟨by decide, by decide⟩, ⟨by decide, by decide⟩, ⟨by decide, by decide⟩, by decide, by decide⟩

theorem witness_DataInvariantKept :
    DataInv (schedAt 0) ∧ (nextOf (step (schedAt 0))).isSome ∧ DataInv State.reset := by decide

theorem witness_EngineNeverStops : CtlInv State.reset ∧ CtlInv (padAt .len 63 0) ∧ CtlInv (absorbAt 63 0x1F8) :=
  ⟨by decide, by decide, by decide⟩

theorem witness_CompressionComputes :
    ({ schedAt 0 with inputs := [commandEntry 0x200#10] }).phase = .sched ∧
    ({ schedAt 0 with inputs := [commandEntry 0x200#10] }).t.val = 0 ∧
    NoReset { schedAt 0 with inputs := [commandEntry 0x200#10] } := by decide

theorem witness_PadderReachesOut :
    ((padAt .mark 55 0x1B8).phase = .pad ∧ (padAt .mark 55 0x1B8).pstage = .mark ∧ (padAt .mark 55 0x1B8).fill.val ≤ 63 ∧
      NoReset (padAt .mark 55 0x1B8)) ∧
    ((padAt .mark 63 0x1F8).phase = .pad ∧ (padAt .mark 63 0x1F8).fill.val ≤ 63 ∧ NoReset (padAt .mark 63 0x1F8)) := by
  decide

/-- The last chunk of a one-chunk message, and the first of two. -/
theorem witness_ChunksArePaddedMessage :
    ({ State.reset with inputs := script (messageLines [0x61#8]) }).phase = .idle ∧
    ({ State.reset with inputs := script (messageLines [0x61#8]) }).inputs = script (messageLines [0x61#8]) ∧
    0 < chunkCount [0x61#8].length ∧ 1 < chunkCount (List.replicate 56 0x61#8).length := by decide

/-- A number of steps after which a compression starts, for a message of one byte, and the last number. -/
theorem witness_CompressionsAreTheChunks :
    ({ State.reset with inputs := script (messageLines [0x61#8]) }).phase = .idle ∧
    stepsToChunk [0x61#8].length 0 ≤ stepsToOut [0x61#8].length ∧
    stepsToOut [0x61#8].length ≤ stepsToOut [0x61#8].length := by decide

theorem witness_MachineDeliversDigest :
    ({ State.reset with inputs := script (digestLines [0x61#8, 0x62#8, 0x63#8]) }).phase = .idle ∧
    ({ outAt 2 with inputs := script (digestLines []) }).phase = .out := by decide

/-- In each phase, two different states that agree on what is live. -/
theorem witness_DeadContentsNeverShow :
    LiveEq State.reset { State.reset with h := IV } ∧ LiveEq (absorbAt 0 0) { absorbAt 0 0 with t := 5 } ∧
    LiveEq (padAt .len 56 0) { padAt .len 56 0 with t := 5 } ∧ LiveEq (schedAt 0) { schedAt 0 with a := 1 } ∧
    LiveEq (inPhase .binit) { inPhase .binit with a := 1 } ∧ LiveEq (inPhase .round) { inPhase .round with fill := 3 } ∧
    LiveEq (inPhase .fold) { inPhase .fold with t := 5 } ∧ LiveEq (outAt 3) { outAt 3 with ml := 8 } := by
  simp [LiveEq, State.reset, absorbAt, padAt, schedAt, inPhase, outAt, State.vars]

theorem witness_BusyEngineIgnoresCommand : busy (schedAt 0) = true ∧ busy (padAt .len 63 0) = true := by decide

/-- For each clause, with `fill` at the ends of what it stops on. -/
theorem witness_StopsWhereNoStepIsDefined :
    (encode .wexp = .seq 0x061#9 ∧ microOp (schedAt 15) ≠ some .wexp) ∧
    ((absorbAt 64 0).phase = .absorb ∧ (absorbAt 64 0).fill.val = 64) ∧
    ((padAt .mark 64 0).phase = .pad ∧ microOp (padAt .mark 64 0) = some .padmark ∧ (padAt .mark 64 0).fill.val = 64) ∧
    (microOp (padAt .len 64 0) = some .padlen ∧ (padAt .len 64 0).fill.val = 64) ∧
    ((padAt .len 55 0).phase = .pad ∧ (padAt .len 55 0).pstage = .len ∧ (padAt .len 55 0).fill.val < 56) := by decide

end Sys2Proof.Tests
end

section
/-! SUPPORT. Which instruction a step fetches (R12, R13, R80, R92, R94), and the statements of spec/00_scope.md. -/
namespace Sys2Proof.Machine

/-! ### The decoder without the reason for a rejection -/

theorem decode?_eq_some_iff {tw : TableWord} {i : Instr} : decode? tw = some i ↔ decode tw = .ok i := by
  cases h : decode tw <;> simp [decode?, h]

theorem decode?_of_error {tw : TableWord} {r : Reject} (h : decode tw = .error r) : decode? tw = none := by
  simp [decode?, h]

/-! ### What the engine and the pins select -/

/-- R92: in a busy phase the rows of the selector table cover every `pstage`, `s` and `x`; in the others no row
matches. -/
theorem decode?_selector_isSome (p : Phase) (st : PStage) (s : BitVec 2) (x : Bool) :
    (decode? (.seq (p.code ++ st.code ++ s ++ BitVec.ofBool x))).isSome = !p.cmdReady := by
  cases p <;> cases st <;> revert s x <;> decide

@[simp] theorem microOp_isSome (s : State) : (microOp s).isSome = busy s :=
  decode?_selector_isSome s.phase s.pstage _ _

theorem microOp_of_ready {s : State} (h : cmdReady s = true) : microOp s = none := by
  rw [← Option.not_isSome_iff_eq_none, microOp_isSome, busy, h]
  decide

/-- R34: `busy` by phase. -/
theorem busy_iff (s : State) :
    busy s = true ↔ s.phase = .pad ∨ s.phase = .sched ∨ s.phase = .binit ∨ s.phase = .round ∨ s.phase = .fold := by
  cases hp : s.phase <;> simp [busy, cmdReady, Phase.cmdReady, hp]

theorem cmdReady_of_outValid {s : State} (h : outValid s = true) : cmdReady s = true := by
  have hp : s.phase = .out := by simpa [outValid] using h
  simp [cmdReady, Phase.cmdReady, hp]

/-- R94, R210: `rst` selects RESET whatever the other pins show, `out_valid` and `out_ready` together select TAKE. -/
theorem pinEvent_eq (s : State) :
    pinEvent s = if s.pins.rst then some .reset else if outValid s && s.pins.outReady then some .take else none := by
  unfold pinEvent pinWord
  generalize s.pins.rst = r, outValid s = v, s.pins.outReady = o
  revert r v o
  decide

@[simp] theorem pinEvent_eq_reset_iff (s : State) : pinEvent s = some .reset ↔ s.pins.rst = true := by
  rw [pinEvent_eq]
  split_ifs <;> simp_all

@[simp] theorem pinEvent_eq_take_iff (s : State) :
    pinEvent s = some .take ↔ s.pins.rst = false ∧ outValid s = true ∧ s.pins.outReady = true := by
  rw [pinEvent_eq]
  split_ifs <;> simp_all

/-! ### One step, by what is fetched -/

/-- R210: reset wins over every other event. -/
theorem step_of_rst {s : State} (h : s.pins.rst = true) : step s = exec .reset (passInput true s) := by
  simp [step, edge, h]

theorem step_of_microOp {s : State} {i : Instr} (hr : s.pins.rst = false) (hi : microOp s = some i) :
    step s = exec i (passInput false s) := by
  simp [step, edge, hr, hi]

theorem step_of_ready {s : State} (hr : s.pins.rst = false) (hc : cmdReady s = true) : step s = hostEdge s := by
  simp [step, edge, hr, microOp_of_ready hc]

theorem hostEdge_of_waiting {s : State} (ht : pinEvent s ≠ some .take) (hv : s.pins.cmdValid = false) :
    hostEdge s = .next (passInput false s) := by
  simp only [hostEdge, ht, hv, decide_false, Bool.or_self, Bool.false_eq_true, if_false]

theorem hostEdge_of_take {s : State} (ht : pinEvent s = some .take) (hv : s.pins.cmdValid = false) :
    hostEdge s = exec .take (passInput true s) := by
  simp only [hostEdge, ht, hv, decide_true, Bool.or_false, Bool.false_eq_true, if_true, if_false]

theorem hostEdge_of_command {s : State} (ht : pinEvent s ≠ some .take) (hv : s.pins.cmdValid = true) :
    hostEdge s = transfer s.pins.cmd (passInput true s) := by
  simp only [hostEdge, ht, hv, decide_false, Bool.or_true, Bool.false_eq_true, if_true, if_false, andThen_next]

/-! ### The transfer of a word -/

theorem transfer_of_ok {w : CmdWord} {i : Instr} (h : decode (.cmd w) = .ok i) (s : State) :
    transfer w s = exec i s := by
  simp [transfer, decode?_eq_some_iff.2 h]

theorem transfer_of_error {w : CmdWord} {r : Reject} (h : decode (.cmd w) = .error r) (s : State) :
    transfer w s = execIllegalWord s := by
  simp [transfer, decode?_of_error h]

/-- R133: outside FAULT a ready engine raises `ILLEGAL_CMD`. -/
theorem execIllegalWord_of_ready {s : State} (hc : cmdReady s = true) (hf : s.phase ≠ .fault) :
    execIllegalWord s = .next (raiseFault illegalCmd s) := by
  have hp : s.phase = .idle ∨ s.phase = .absorb ∨ s.phase = .out := by
    cases hp : s.phase <;> simp_all [cmdReady, Phase.cmdReady]
  exact acceptCommand_of_accepting hp

/-! ### The input levels -/

theorem passInput_cases (acted : Bool) (s : State) :
    passInput acted s = s ∨ passInput acted s = { s with inputs := s.inputs.drop 1 } := by
  rw [List.drop_one]
  rcases inputsAfter_cases acted s.inputs with h | h
  · exact .inl (by rw [passInput, h])
  · exact .inr (by rw [passInput, h])

/-! ### The statements -/

/-- Settles O38: the selector table covers exactly the busy phases, and in none of them `out_valid` is 1. -/
theorem oneAgentEnabled : Obligations.OneAgentEnabled := by
  intro s
  refine ⟨by rw [microOp_isSome], fun hb => ?_, busy_iff s⟩
  have hc : cmdReady s = false := by simpa [busy] using hb
  refine ⟨hc, Bool.eq_false_iff.2 fun hv => ?_⟩
  simp [cmdReady_of_outValid hv] at hc

/-- Settles O37: one lemma for each kind of edge says what `step` runs. -/
theorem stepRunsDecodedInstruction : Obligations.StepRunsDecodedInstruction := by
  refine ⟨?reset, ?microOp, ?command, ?word, ?reserved, ?take, ?waiting, passInput_cases⟩
  case reset =>
    intro s h
    exact step_of_rst ((pinEvent_eq_reset_iff s).1 (decode?_eq_some_iff.2 h))
  case microOp =>
    intro s i hr h
    exact step_of_microOp hr (decode?_eq_some_iff.2 h)
  case command =>
    intro s i hr hc hv ht h
    rw [step_of_ready hr hc, hostEdge_of_command ht hv, transfer_of_ok h]
  case word =>
    intro s hr hc hv ht
    rw [step_of_ready hr hc, hostEdge_of_command ht hv]
  case reserved =>
    intro s r hr hc hv ht h hf
    rw [step_of_ready hr hc, hostEdge_of_command ht hv, transfer_of_error h]
    exact execIllegalWord_of_ready (s := passInput true s) hc hf
  case take =>
    intro s h hv
    have ht : pinEvent s = some .take := decode?_eq_some_iff.2 h
    obtain ⟨hr, hov, -⟩ := (pinEvent_eq_take_iff s).1 ht
    rw [step_of_ready hr (cmdReady_of_outValid hov), hostEdge_of_take ht hv]
  case waiting =>
    intro s hr hc hv ht
    rw [step_of_ready hr hc, hostEdge_of_waiting ht hv]

end Sys2Proof.Machine
end

section
/-! SUPPORT. Everything an instruction can do when it answers a next state, said once (R38, R92, R137), and how an
invariant of the instructions becomes one of the step. -/
namespace Sys2Proof.Machine

open Sys2Proof.Safety

/-! ### The micro-operation by phase -/

/-- R171 to R174: the round instruction of a stage. -/
def roundInstr : Fin 4 → Instr
  | 0 => .rnd0
  | 1 => .rnd1
  | 2 => .rnd2
  | 3 => .rnd3

/-- R150 to R152: the padder's instruction in a padding stage. -/
def padInstr : PStage → Instr
  | .mark => .padmark
  | .zero => .padzero
  | .len => .padlen

/-- R160, R161: the schedule's instruction by `x`, which says whether `t >= 16`. -/
def schedInstr (x : Bool) : Instr := if x then .wexp else .wload

/-- R92: what the selector `{phase, pstage, s, x}` selects. -/
def selectedInstr (p : Phase) (st : PStage) (n : Fin 4) (x : Bool) : Option Instr :=
  match p with
  | .pad => some (padInstr st)
  | .sched => some (schedInstr x)
  | .binit => some .binit
  | .round => some (roundInstr n)
  | .fold => some .fold
  | .idle | .absorb | .out | .fault => none

theorem decode?_selector (p : Phase) (st : PStage) (n : Fin 4) (x : Bool) :
    decode? (.seq (p.code ++ st.code ++ BitVec.ofNat 2 n.val ++ BitVec.ofBool x)) = selectedInstr p st n x := by
  cases p <;> cases st <;> revert n x <;> decide

theorem microOp_eq (s : State) :
    microOp s = selectedInstr s.phase s.pstage (stage s.t) (decide (16 ≤ s.t.val)) :=
  decode?_selector s.phase s.pstage (stage s.t) _

/-! ### What an instruction can do -/

/-- R130 to R132: the phases in which a command is accepted. -/
abbrev Accepting (s : State) : Prop := s.phase = .idle ∨ s.phase = .absorb ∨ s.phase = .out

/-- R160, R161: the schedule word of index `t` is written and `t` advances. -/
def scheduleStep (s : State) : State :=
  advanceT .binit { s with w := s.w.set s.t.val (scheduleWord s.chunk s.w s.t) }

/-- Everything an instruction can do when it answers a next state: one constructor for each kind of effect. -/
inductive Effect (s : State) : Instr → State → Prop
  /-- R134, R135, R191: a command that is not accepted, a take where no byte is offered. -/
  | waits {i : Instr} (hp : s.phase ≠ .out) : Effect s i s
  | init (hp : Accepting s) : Effect s .init { s with h := IV, ml := 0, fill := 0, phase := .absorb }
  | data {b : Byte} {t : State} (hp : s.phase = .absorb)
      (ht : pushByte b .absorb { s with ml := s.ml + 8 } = .next t) : Effect s (.data b) t
  | final (hp : s.phase = .absorb) : Effect s .final { s with pstage := .mark, phase := .pad }
  | outOfSequence {i : Instr} {code : BitVec 2} (hi : Sequenced i = true) (hp : s.phase = .idle ∨ s.phase = .out)
      (hc : code ≠ 0) : Effect s i (raiseFault code s)
  | take (hp : s.phase = .out) : Effect s .take (advanceOidx (deliver s))
  | reset : Effect s .reset (leaveToIdle s)
  | pad {v : Byte} {t : State} (hp : s.phase = .pad) (hfill : s.pstage = .len → 56 ≤ s.fill.val)
      (ht : padStep v s = .next t) : Effect s (padInstr s.pstage) t
  | schedule (hp : s.phase = .sched) : Effect s (schedInstr (decide (16 ≤ s.t.val))) (scheduleStep s)
  | binit (hp : s.phase = .binit) : Effect s .binit { s.setVars (varsOf s.h) with t := 0, phase := .round }
  | round (hp : s.phase = .round) :
      Effect s (roundInstr (stage s.t)) (roundStep (stageFn (stage s.t)) K[(stage s.t).val] s)
  | fold (hp : s.phase = .fold) : Effect s .fold
      { s with h := foldVars s.h s.vars, fill := 0, oidx := foldOidx s, phase := s.ret.phase }

/-- A command that is accepted has the effect of its own, any other waits or is discarded. -/
theorem effect_of_acceptCommand {i : Instr} {k : State → Result} {s t : State} (h : acceptCommand k s = .next t)
    (hk : Accepting s → k s = .next t → Effect s i t) : Effect s i t := by
  rcases acceptCommand_cases k s with ⟨hw, -, -, hout⟩ | ⟨he, ha⟩
  · cases hw.symm.trans h
    exact .waits hout
  · exact hk ha (he.symm.trans h)

/-- R137: a sequenced command in ABSORB has the effect of its own, in IDLE and OUT it raises its fault. -/
theorem effect_of_sequenced {i : Instr} {k : State → Result} {code : BitVec 2} {s t : State} (ha : Accepting s)
    (hi : Sequenced i = true) (hc : code ≠ 0)
    (h : (if s.phase = .absorb then k s else .next (raiseFault code s)) = .next t)
    (hk : s.phase = .absorb → k s = .next t → Effect s i t) : Effect s i t := by
  split at h
  next hp => exact hk hp h
  next hp =>
    cases h
    exact .outOfSequence hi (by simpa [Accepting, hp] using ha) hc

theorem effect_of_execInit {s t : State} (h : execInit s = .next t) : Effect s .init t := by
  refine effect_of_acceptCommand h fun ha hk => ?_
  cases hk
  exact .init ha

theorem effect_of_execData {b : Byte} {s t : State} (h : execData b s = .next t) : Effect s (.data b) t :=
  effect_of_acceptCommand h fun ha hk =>
    effect_of_sequenced (k := fun s => pushByte b .absorb { s with ml := s.ml + 8 }) ha rfl (by decide) hk .data

theorem effect_of_execFinal {s t : State} (h : execFinal s = .next t) : Effect s .final t := by
  refine effect_of_acceptCommand h fun ha hk =>
    effect_of_sequenced (k := fun s => .next { s with pstage := .mark, phase := .pad }) ha rfl (by decide) hk
      fun hp ht => ?_
  cases ht
  exact .final hp

theorem effect_of_execTake {s t : State} (h : execTake s = .next t) : Effect s .take t := by
  unfold execTake at h
  split at h
  next hv =>
    cases h
    exact .take (by simpa [outValid] using hv)
  next hv =>
    cases h
    exact .waits (by simpa [outValid] using hv)

/-- R93: a micro-operation that answers a next state was selected. -/
theorem of_guarded_eq_next {c : Prop} [Decidable c] {r : Result} {f : Fault} {t : State}
    (h : (if c then r else .fault f) = .next t) : c ∧ r = .next t := by
  split at h
  · exact ⟨‹c›, h⟩
  · cases h

theorem effect_of_execPadmark {s t : State} (h : execPadmark s = .next t) : Effect s .padmark t := by
  obtain ⟨⟨hp, hst⟩, ht⟩ := of_guarded_eq_next h
  have he := Effect.pad hp (by simp [hst]) ht
  rwa [hst] at he

theorem effect_of_execPadzero {s t : State} (h : execPadzero s = .next t) : Effect s .padzero t := by
  obtain ⟨⟨hp, hst⟩, ht⟩ := of_guarded_eq_next h
  have he := Effect.pad hp (by simp [hst]) ht
  rwa [hst] at he

theorem effect_of_execPadlen {s t : State} (h : execPadlen s = .next t) : Effect s .padlen t := by
  obtain ⟨⟨hp, hst⟩, ht⟩ := of_guarded_eq_next h
  split at ht
  · cases ht
  next hfill =>
    split at ht
    · have he := Effect.pad hp (fun _ => by omega) ht
      rwa [hst] at he
    · cases ht

theorem effect_of_execWload {s t : State} (h : execWload s = .next t) : Effect s .wload t := by
  unfold execWload at h
  split at h
  next hc =>
    cases h
    have he := Effect.schedule hc.1
    rwa [decide_eq_false (Nat.not_le.2 hc.2), scheduleStep, scheduleWord, dif_pos hc.2] at he
  · cases h

theorem effect_of_execWexp {s t : State} (h : execWexp s = .next t) : Effect s .wexp t := by
  obtain ⟨⟨hp, ht16⟩, ht⟩ := of_guarded_eq_next h
  cases ht
  have he := Effect.schedule hp
  rwa [decide_eq_true ht16, scheduleStep, scheduleWord, dif_neg (Nat.not_lt.2 ht16)] at he

theorem effect_of_execBinit {s t : State} (h : execBinit s = .next t) : Effect s .binit t := by
  obtain ⟨hp, ht⟩ := of_guarded_eq_next h
  cases ht
  exact .binit hp

/-- R171 to R174: the four round instructions are one, at the boolean function and constant of their stage. -/
theorem effect_of_roundInstr {n : Fin 4} {s t : State}
    (h : (if s.phase = .round ∧ stage s.t = n then (.next (roundStep (stageFn n) K[n.val] s) : Result)
      else .fault .notSelected) = .next t) : Effect s (roundInstr n) t := by
  obtain ⟨⟨hp, rfl⟩, ht⟩ := of_guarded_eq_next h
  cases ht
  exact .round hp

theorem effect_of_execFold {s t : State} (h : execFold s = .next t) : Effect s .fold t := by
  obtain ⟨hp, ht⟩ := of_guarded_eq_next h
  cases ht
  exact .fold hp

/-- Every instruction that answers a next state has one of the effects of `Effect`. -/
theorem effect_of_exec {i : Instr} {s t : State} (h : exec i s = .next t) : Effect s i t := by
  cases i with
  | init => exact effect_of_execInit h
  | data b => exact effect_of_execData h
  | final => exact effect_of_execFinal h
  | take => exact effect_of_execTake h
  | reset => cases h; exact .reset
  | padmark => exact effect_of_execPadmark h
  | padzero => exact effect_of_execPadzero h
  | padlen => exact effect_of_execPadlen h
  | wload => exact effect_of_execWload h
  | wexp => exact effect_of_execWexp h
  | binit => exact effect_of_execBinit h
  | rnd0 => exact effect_of_roundInstr (n := 0) h
  | rnd1 => exact effect_of_roundInstr (n := 1) h
  | rnd2 => exact effect_of_roundInstr (n := 2) h
  | rnd3 => exact effect_of_roundInstr (n := 3) h
  | fold => exact effect_of_execFold h

/-! ### A selected micro-operation runs -/

theorem exec_schedInstr {s : State} (hp : s.phase = .sched) :
    exec (schedInstr (decide (16 ≤ s.t.val))) s = .next (scheduleStep s) := by
  by_cases ht : 16 ≤ s.t.val
  · have hlt : ¬ s.t.val < 16 := Nat.not_lt.2 ht
    simp [schedInstr, exec, execWexp, scheduleStep, scheduleWord, hp, ht, hlt]
  · have hlt : s.t.val < 16 := Nat.not_le.1 ht
    simp [schedInstr, exec, execWload, scheduleStep, scheduleWord, hp, ht, hlt]

theorem exec_roundInstr {n : Fin 4} {s : State} (hp : s.phase = .round) (hn : stage s.t = n) :
    exec (roundInstr n) s = .next (roundStep (stageFn n) K[n.val] s) := by
  match n with
  | 0 | 1 | 2 | 3 => exact if_pos ⟨hp, hn⟩

theorem exec_padmark {s : State} (hp : s.phase = .pad) (hst : s.pstage = .mark) :
    exec .padmark s = padStep 0x80#8 s := if_pos ⟨hp, hst⟩

theorem exec_padzero {s : State} (hp : s.phase = .pad) (hst : s.pstage = .zero) :
    exec .padzero s = padStep 0x00#8 s := if_pos ⟨hp, hst⟩

theorem exec_padlen_of_low {s : State} (hp : s.phase = .pad) (hst : s.pstage = .len) (hf : s.fill.val < 56) :
    exec .padlen s = .fault .lengthByteIndex := by
  simp [exec, execPadlen, hp, hst, hf]

theorem exec_padlen_of_lengthByte {s : State} (hp : s.phase = .pad) (hst : s.pstage = .len) (hf : 56 ≤ s.fill.val)
    (hlt : s.fill.val - 56 < 8) : exec .padlen s = padStep (byte64 s.ml ⟨s.fill.val - 56, hlt⟩) s := by
  simp [exec, execPadlen, hp, hst, hlt, Nat.not_lt.2 hf]

theorem exec_padlen_of_full {s : State} (hp : s.phase = .pad) (hst : s.pstage = .len) (hf : s.fill.val = 64) :
    exec .padlen s = .fault .chunkIndex := by
  simp [exec, execPadlen, hp, hst, hf]

theorem exec_binit {s : State} (hp : s.phase = .binit) :
    exec .binit s = .next { s.setVars (varsOf s.h) with t := 0, phase := .round } := if_pos hp

theorem exec_fold {s : State} (hp : s.phase = .fold) : exec .fold s =
    .next { s with h := foldVars s.h s.vars, fill := 0, oidx := foldOidx s, phase := s.ret.phase } := if_pos hp

/-! ### From the instructions to the step -/

/-- R133, R134: an illegal word raises `ILLEGAL_CMD` or changes nothing. -/
theorem execIllegalWord_cases {s t : State} (h : execIllegalWord s = .next t) :
    t = s ∨ t = raiseFault illegalCmd s := by
  rcases acceptCommand_cases (fun s => .next (raiseFault illegalCmd s)) s with ⟨hw, -⟩ | ⟨he, -⟩
  · cases hw.symm.trans h
    exact .inl rfl
  · cases he.symm.trans h
    exact .inr rfl

/-- A predicate that the passing of the input levels, every effect of an instruction and the fault of an illegal
word keep is kept by every step. -/
theorem step_keeps {P : State → Prop} (hpass : ∀ acted s, P s → P (passInput acted s))
    (heffect : ∀ i s t, P s → Effect s i t → P t) (hillegal : ∀ s, P s → P (raiseFault illegalCmd s))
    {s t : State} (hs : P s) (h : step s = .next t) : P t := by
  have hexec : ∀ i u, P u → exec i u = .next t → P t := fun i u hu hi => heffect i u t hu (effect_of_exec hi)
  have htransfer : ∀ w u, P u → transfer w u = .next t → P t := by
    intro w u hu ht
    rcases transfer_cases w u with ⟨i, -, hi⟩ | ⟨-, hi⟩
    · exact hexec i u hu (hi.symm.trans ht)
    · rcases execIllegalWord_cases (hi.symm.trans ht) with rfl | rfl
      · exact hu
      · exact hillegal u hu
  have hhost : hostEdge s = .next t → P t := by
    intro hh
    rcases hostEdge_cases hh with ⟨-, -, rfl⟩ | ⟨-, -, ht⟩ | ⟨-, -, ht⟩ | ⟨-, -, u, hu, ht⟩
    · exact hpass false s hs
    · exact hexec .take _ (hpass true s hs) ht
    · exact htransfer _ _ (hpass true s hs) ht
    · exact htransfer _ u (heffect .take _ u (hpass true s hs) (effect_of_exec hu)) ht
  rcases edge_cases h with ⟨-, rfl⟩ | ⟨-, i, -, hi⟩ | ⟨-, -, hh⟩
  · exact heffect .reset _ _ (hpass true s hs) .reset
  · exact hexec i _ (hpass false s hs) hi
  · exact hhost hh

end Sys2Proof.Machine
end

section
/-! SUPPORT. The frame of every instruction: the access matrix R38. -/
namespace Sys2Proof.Machine

open Sys2Proof.Safety

/-! ### The rows of the matrix -/

theorem writesFrom_of_not_sequenced {i : Instr} (hi : Sequenced i = false) (s : State) :
    writesFrom i s = mayWrite i := by
  simp [writesFrom, hi]

theorem writesFrom_of_absorb {s : State} (hp : s.phase = .absorb) (i : Instr) : writesFrom i s = mayWrite i := by
  simp [writesFrom, hp]

theorem writesFrom_of_outOfSequence {i : Instr} {s : State} (hi : Sequenced i = true)
    (hp : s.phase = .idle ∨ s.phase = .out) : writesFrom i s = [.phase, .err] := by
  simp [writesFrom, hi, hp]

theorem writesFrom_schedInstr (x : Bool) (s : State) : writesFrom (schedInstr x) s = [.w, .t, .phase] := by
  cases x <;> rfl

theorem writesFrom_roundInstr (n : Fin 4) (s : State) : writesFrom (roundInstr n) s = [.vars, .t, .phase] := by
  match n with
  | 0 | 1 | 2 | 3 => rfl

/-! ### Changes in a row -/

theorem eq_of_changes {α : Type} {e : Elem} {es es' : List Elem} {x y z : α} (h : e ∉ es → y = x)
    (h' : e ∉ es' → z = y) : e ∉ es ++ es' → z = x := by
  intro hn
  rw [List.mem_append, not_or] at hn
  exact (h' hn.2).trans (h hn.1)

/-- One entry of an array, at index `k`, where the two changes may write at `i` and at `i'`. -/
theorem eq_of_changes_at {α ι : Type} {e : Elem} {es es' : List Elem} {x y z : α} {k i i' : ι}
    (h : e ∉ es ∨ k ≠ i → y = x) (h' : e ∉ es' ∨ k ≠ i' → z = y) (hi : e ∈ es' → i' = i) :
    e ∉ es ++ es' ∨ k ≠ i → z = x := by
  intro hn
  rw [List.mem_append, not_or] at hn
  have hx : e ∉ es ∨ k ≠ i := hn.imp_left And.left
  have hz : e ∉ es' ∨ k ≠ i' := by
    by_cases he : e ∈ es'
    · exact .inr (hi he ▸ hn.resolve_left fun hne => hne.2 he)
    · exact .inl he
  exact (h' hz).trans (h hx)

theorem changesOnly_refl (es : List Elem) (s : State) : ChangesOnly es s s := by
  simp [ChangesOnly]

/-- Two changes in a row change only what one of them may; an array that the second writes needs its index kept by
the first (R50). -/
theorem changesOnly_trans {es es' : List Elem} {s u t : State} (h : ChangesOnly es s u) (h' : ChangesOnly es' u t)
    (hwt : .w ∈ es' → u.t = s.t) (hcf : .chunk ∈ es' → u.fill = s.fill) : ChangesOnly (es ++ es') s t := by
  obtain ⟨hh, hv, hw, hc, hml, hf, ht, ho, hp, hst, hr, he⟩ := h
  obtain ⟨hh', hv', hw', hc', hml', hf', ht', ho', hp', hst', hr', he'⟩ := h'
  exact ⟨eq_of_changes hh hh', eq_of_changes hv hv', fun k => eq_of_changes_at (hw k) (hw' k) hwt,
    fun k => eq_of_changes_at (hc k) (hc' k) fun hm => congrArg Fin.val (hcf hm), eq_of_changes hml hml',
    eq_of_changes hf hf', eq_of_changes ht ht', eq_of_changes ho ho', eq_of_changes hp hp',
    eq_of_changes hst hst', eq_of_changes hr hr', fun hn =>
      ⟨eq_of_changes (fun n => (he n).1) (fun n => (he' n).1) hn,
        eq_of_changes (fun n => (he n).2) (fun n => (he' n).2) hn⟩⟩

theorem changesOnly_mono {es es' : List Elem} {s t : State} (h : ChangesOnly es s t) (hsub : es ⊆ es') :
    ChangesOnly es' s t := by
  have hn : ∀ {e : Elem}, e ∉ es' → e ∉ es := fun hne hm => hne (hsub hm)
  obtain ⟨hh, hv, hw, hc, hml, hf, ht, ho, hp, hst, hr, he⟩ := h
  exact ⟨hh ∘ hn, hv ∘ hn, fun k => hw k ∘ Or.imp_left hn, fun k => hc k ∘ Or.imp_left hn, hml ∘ hn, hf ∘ hn,
    ht ∘ hn, ho ∘ hn, hp ∘ hn, hst ∘ hn, hr ∘ hn, he ∘ hn⟩

/-! ### What each shared operation may change -/

theorem changesOnly_withByte (v : Byte) (s : State) (h : s.fill.val < 64) :
    ChangesOnly [.chunk, .fill] s (withByte v s h) := by
  have hchunk : ∀ k : Fin 64, k.val ≠ s.fill.val → (withByte v s h).chunk[k] = s.chunk[k] := fun k hk => by
    rw [withByte_chunk_get, if_neg hk]
  simpa [ChangesOnly, withByte, State.vars] using hchunk

theorem changesOnly_startCompression (r : Ret) (s : State) :
    ChangesOnly [.t, .phase, .ret] s (startCompression r s) := by
  simp [ChangesOnly]

theorem changesOnly_pushByte {v : Byte} {r : Ret} {s t : State} (h : pushByte v r s = .next t) :
    ChangesOnly [.chunk, .fill, .t, .phase, .ret] s t := by
  obtain ⟨hlt, ⟨-, rfl⟩ | ⟨-, rfl⟩⟩ := pushByte_cases h
  · exact changesOnly_mono (changesOnly_withByte v s hlt) (by decide)
  · exact changesOnly_trans (changesOnly_withByte v s hlt) (changesOnly_startCompression r _) (by simp) (by simp)

theorem changesOnly_advanceT (last : Phase) (s : State) : ChangesOnly [.t, .phase] s (advanceT last s) := by
  simp [ChangesOnly]

theorem changesOnly_setVars (v : RoundVars) (s : State) : ChangesOnly [.vars] s (s.setVars v) := by
  simp [ChangesOnly]

theorem changesOnly_raiseFault (code : BitVec 2) (s : State) : ChangesOnly [.phase, .err] s (raiseFault code s) := by
  simp [ChangesOnly]

theorem changesOnly_take (s : State) : ChangesOnly [.oidx, .phase] s (advanceOidx (deliver s)) := by
  simp [ChangesOnly]

/-- R50: of `w` only the word at `t`. -/
theorem changesOnly_scheduleStep (s : State) : ChangesOnly [.w, .t, .phase] s (scheduleStep s) := by
  have hw : ∀ k : Fin 80, k ≠ s.t → (s.w.set s.t.val (scheduleWord s.chunk s.w s.t))[k] = s.w[k] := fun k hk =>
    Vector.getElem_set_ne _ _ fun he => hk (Fin.ext he.symm)
  refine changesOnly_trans (es := [.w]) ?_ (changesOnly_advanceT .binit _) (by simp) (by simp)
  simpa [ChangesOnly, State.vars] using hw

/-- R152: the length field's bytes leave `pstage` as it is, the other padder steps write it. -/
theorem changesOnly_padStep {v : Byte} {s t : State} (h : padStep v s = .next t) :
    ChangesOnly (mayWrite (padInstr s.pstage)) s t := by
  have hpush := changesOnly_pushByte h
  cases hst : s.pstage with
  | len =>
    have hkept : nextPStage s = s.pstage := by simp [nextPStage, hst]
    rw [hkept] at hpush
    exact hpush
  | mark | zero =>
    have hset : ChangesOnly [.pstage] s { s with pstage := nextPStage s } := by simp [ChangesOnly, State.vars]
    exact changesOnly_mono (changesOnly_trans hset hpush (by simp) fun _ => rfl) (by decide)

/-! ### The matrix -/

theorem Effect.changesOnly {i : Instr} {s t : State} (h : Effect s i t) : ChangesOnly (writesFrom i s) s t := by
  cases h with
  | waits => exact changesOnly_refl _ s
  | init => simp [ChangesOnly, writesFrom, Sequenced, mayWrite, State.vars]
  | data hp hpush =>
    rw [writesFrom_of_absorb hp]
    have hml : ChangesOnly [.ml] s { s with ml := s.ml + 8 } := by simp [ChangesOnly, State.vars]
    exact changesOnly_mono (changesOnly_trans hml (changesOnly_pushByte hpush) (by simp) fun _ => rfl)
      (by simp [mayWrite])
  | final hp =>
    rw [writesFrom_of_absorb hp]
    simp [ChangesOnly, mayWrite, State.vars]
  | outOfSequence hi hp =>
    rw [writesFrom_of_outOfSequence hi hp]
    exact changesOnly_raiseFault _ s
  | take => exact changesOnly_take s
  | reset => simp [ChangesOnly, writesFrom, Sequenced, mayWrite]
  | pad hp hfill ht =>
    rw [writesFrom_of_not_sequenced (by cases s.pstage <;> rfl)]
    exact changesOnly_padStep ht
  | schedule =>
    rw [writesFrom_schedInstr]
    exact changesOnly_scheduleStep s
  | binit => simp [ChangesOnly, writesFrom, Sequenced, mayWrite, State.vars]
  | round =>
    rw [writesFrom_roundInstr]
    exact changesOnly_trans (changesOnly_setVars _ s) (changesOnly_advanceT .fold _) (by simp) (by simp)
  | fold => simp [ChangesOnly, writesFrom, Sequenced, mayWrite, State.vars]

theorem pushByte_host {v : Byte} {r : Ret} {s t : State} (h : pushByte v r s = .next t) :
    t.inputs = s.inputs ∧ t.delivered = s.delivered := by
  obtain ⟨-, ⟨-, rfl⟩ | ⟨-, rfl⟩⟩ := pushByte_cases h <;> exact ⟨rfl, rfl⟩

/-- What the host drives no instruction changes, what it has received TAKE only. -/
theorem Effect.host {i : Instr} {s t : State} (h : Effect s i t) :
    t.inputs = s.inputs ∧ (i ≠ .take → t.delivered = s.delivered) := by
  cases h with
  | data hp ht | pad hp hfill ht => exact (pushByte_host ht).imp_right fun hd _ => hd
  | take => exact ⟨rfl, fun hne => absurd rfl hne⟩
  | _ => exact ⟨rfl, fun _ => rfl⟩

/-- Settles O40: each effect an instruction can have stays within its row of the matrix. -/
theorem accessMatrixFrame : Obligations.AccessMatrixFrame := fun _ _ _ h =>
  have he := effect_of_exec h
  ⟨he.changesOnly, he.host⟩

end Sys2Proof.Machine
end

section
/-! SUPPORT. The control invariant of R39: at reset, kept by every step, and what it says of FAULT. -/
namespace Sys2Proof.Machine

open Sys2Proof.Safety

/-! ### The control invariant by phase -/

/-- R33: no fault is recorded. -/
def NoError (s : State) : Prop := s.err = false ∧ s.errCode = 0

/-- R27: the bit length is a whole number of bytes. -/
def WholeBytes (s : State) : Prop := s.ml.extractLsb' 0 3 = 0#3

theorem errAgrees_iff_noError {s : State} (hp : s.phase ≠ .fault) : ErrAgrees s ↔ NoError s := by
  cases he : s.err <;> simp [ErrAgrees, NoError, he, hp]

theorem ctlInv_iff_of_idle {s : State} (hp : s.phase = .idle) : CtlInv s ↔ NoError s := by
  rw [CtlInv, errAgrees_iff_noError (by simp [hp])]
  simp [Compressing, hp]

theorem ctlInv_iff_of_fault {s : State} (hp : s.phase = .fault) : CtlInv s ↔ s.err = true ∧ s.errCode ≠ 0 := by
  cases he : s.err <;> simp [CtlInv, ErrAgrees, Compressing, he, hp]

theorem ctlInv_iff_of_out {s : State} (hp : s.phase = .out) : CtlInv s ↔ NoError s ∧ WholeBytes s := by
  rw [CtlInv, errAgrees_iff_noError (by simp [hp])]
  simp [WholeBytes, Compressing, hp]

theorem ctlInv_iff_of_absorb {s : State} (hp : s.phase = .absorb) :
    CtlInv s ↔ NoError s ∧ WholeBytes s ∧ s.fill.val = messageFill s := by
  rw [CtlInv, errAgrees_iff_noError (by simp [hp])]
  simp [WholeBytes, Compressing, hp]

theorem ctlInv_iff_of_pad {s : State} (hp : s.phase = .pad) :
    CtlInv s ↔ NoError s ∧ WholeBytes s ∧ s.fill.val ≤ 63 ∧ (s.pstage = .len → 56 ≤ s.fill.val) ∧
      (s.pstage = .zero → s.fill.val ≠ 56) ∧ (s.pstage = .mark → s.fill.val = messageFill s) := by
  rw [CtlInv, errAgrees_iff_noError (by simp [hp])]
  simp [WholeBytes, Compressing, hp]

theorem ctlInv_iff_of_compressing {s : State} (hp : Compressing s.phase = true) :
    CtlInv s ↔ NoError s ∧ WholeBytes s ∧ s.fill.val = 64 ∧ (s.ret = .absorb → messageFill s = 0) ∧
      (s.ret = .pad → s.pstage = .zero) ∧ (s.ret = .out → s.pstage = .len) := by
  have hne : s.phase ≠ .idle ∧ s.phase ≠ .absorb ∧ s.phase ≠ .pad ∧ s.phase ≠ .fault := by
    refine ⟨?_, ?_, ?_, ?_⟩ <;> intro h <;> simp [h, Compressing] at hp
  rw [CtlInv, errAgrees_iff_noError hne.2.2.2]
  simp [WholeBytes, hp, hne]

theorem noError_of_ctlInv {s : State} (hs : CtlInv s) (hp : s.phase ≠ .fault) : NoError s :=
  (errAgrees_iff_noError hp).1 hs.1

/-! ### The length and the fill -/

/-- R131: one byte more is one more in `ml[8:3]`, modulo the 64 bytes of a chunk. -/
theorem extractFill_add_eight (ml : Length) :
    ((ml + 8).extractLsb' 3 6).toNat = ((ml.extractLsb' 3 6).toNat + 1) % 64 := by
  simp only [BitVec.extractLsb'_toNat, BitVec.toNat_add, Nat.shiftRight_eq_div_pow,
    show (8 : Length).toNat = 8 from rfl]
  omega

/-- R27: one byte more leaves `ml[2:0]` as it is. -/
theorem extractBits_add_eight (ml : Length) : (ml + 8).extractLsb' 0 3 = ml.extractLsb' 0 3 := by
  apply BitVec.eq_of_toNat_eq
  simp only [BitVec.extractLsb'_toNat, BitVec.toNat_add, Nat.shiftRight_eq_div_pow,
    show (8 : Length).toNat = 8 from rfl]
  omega

/-! ### What keeps the control invariant -/

theorem ctlInv_raiseFault {code : BitVec 2} (hc : code ≠ 0) (s : State) : CtlInv (raiseFault code s) :=
  (ctlInv_iff_of_fault rfl).2 ⟨rfl, hc⟩

theorem ctlInv_leaveToIdle (s : State) : CtlInv (leaveToIdle s) := (ctlInv_iff_of_idle rfl).2 ⟨rfl, rfl⟩

theorem ctlInv_passInput (acted : Bool) {s : State} (hs : CtlInv s) : CtlInv (passInput acted s) := hs

/-- R130: an empty message. -/
theorem ctlInv_init {s : State} (hs : CtlInv s) (hp : Accepting s) :
    CtlInv { s with h := IV, ml := 0, fill := 0, phase := .absorb } := by
  have hne : s.phase ≠ .fault := by rcases hp with h | h | h <;> simp [h]
  have hno : NoError s := noError_of_ctlInv hs hne
  exact (ctlInv_iff_of_absorb rfl).2 ⟨hno, rfl, by simp [messageFill]⟩

/-- R131: `fill` and `ml[8:3]` count the byte together, and both start again at the end of a chunk. -/
theorem ctlInv_data {b : Byte} {s t : State} (hs : CtlInv s) (hp : s.phase = .absorb)
    (ht : pushByte b .absorb { s with ml := s.ml + 8 } = .next t) : CtlInv t := by
  obtain ⟨hne, hwhole, hfill⟩ := (ctlInv_iff_of_absorb hp).1 hs
  have hw : WholeBytes { s with ml := s.ml + 8 } := (extractBits_add_eight s.ml).trans hwhole
  have hf : messageFill { s with ml := s.ml + 8 } = (s.fill.val + 1) % 64 := by
    rw [hfill]
    exact extractFill_add_eight s.ml
  obtain ⟨hlt, ⟨hroom, rfl⟩ | ⟨hlast, rfl⟩⟩ := pushByte_cases ht
  · exact (ctlInv_iff_of_absorb (by exact hp)).2 ⟨hne, hw, (hf.trans (Nat.mod_eq_of_lt hroom)).symm⟩
  · refine (ctlInv_iff_of_compressing rfl).2 ⟨hne, hw, hlast, fun _ => ?_, nofun, nofun⟩
    exact hf.trans (by simp [show s.fill.val + 1 = 64 from hlast])

/-- R132: the padding begins where the message ends. -/
theorem ctlInv_final {s : State} (hs : CtlInv s) (hp : s.phase = .absorb) :
    CtlInv { s with pstage := .mark, phase := .pad } := by
  obtain ⟨hne, hwhole, hfill⟩ := (ctlInv_iff_of_absorb hp).1 hs
  have hlt : messageFill s < 64 := (s.ml.extractLsb' 3 6).isLt
  exact (ctlInv_iff_of_pad rfl).2 ⟨hne, hwhole, by show s.fill.val ≤ 63; omega, nofun, nofun, fun _ => hfill⟩

theorem ctlInv_take {s : State} (hs : CtlInv s) (hp : s.phase = .out) : CtlInv (advanceOidx (deliver s)) := by
  obtain ⟨hne, hwhole⟩ := (ctlInv_iff_of_out hp).1 hs
  rcases advanceOidx_cases (deliver s) with ⟨_, ht⟩ | ⟨_, ht⟩
  all_goals rw [ht]
  · exact (ctlInv_iff_of_out (by exact hp)).2 ⟨hne, hwhole⟩
  · exact (ctlInv_iff_of_idle rfl).2 hne

/-- R153: LEN stays, and comes when the next `fill` is 56. -/
theorem nextPStage_cases (s : State) :
    (s.pstage = .len ∧ nextPStage s = .len) ∨ (s.pstage ≠ .len ∧ s.fill.val + 1 = 56 ∧ nextPStage s = .len) ∨
    (s.pstage ≠ .len ∧ s.fill.val + 1 ≠ 56 ∧ nextPStage s = .zero) := by
  by_cases hl : s.pstage = .len <;> by_cases hf : s.fill.val + 1 = 56 <;> simp [nextPStage, hl, hf]

/-- R153: while the chunk has room, the next stage is one that the next `fill` allows. -/
theorem nextPStage_fits {s : State} (hlen : s.pstage = .len → 56 ≤ s.fill.val) :
    (nextPStage s = .len → 56 ≤ s.fill.val + 1) ∧ (nextPStage s = .zero → s.fill.val + 1 ≠ 56) ∧
      nextPStage s ≠ .mark := by
  rcases nextPStage_cases s with ⟨hl, hn⟩ | ⟨-, hf, hn⟩ | ⟨-, hf, hn⟩
  · exact ⟨fun _ => Nat.le_succ_of_le (hlen hl), by simp [hn], by simp [hn]⟩
  · exact ⟨fun _ => hf.ge, by simp [hn], by simp [hn]⟩
  · exact ⟨by simp [hn], fun _ => hf, by simp [hn]⟩

/-- R153: at the end of the chunk the phase to come back to agrees with the next stage. -/
theorem padRet_fits {s : State} (hlast : s.fill.val + 1 = 64) :
    padRet s ≠ .absorb ∧ (padRet s = .pad → nextPStage s = .zero) ∧ (padRet s = .out → nextPStage s = .len) := by
  by_cases hl : s.pstage = .len <;> simp [padRet, nextPStage, hl, hlast]

theorem ctlInv_pad {v : Byte} {s t : State} (hs : CtlInv s) (hp : s.phase = .pad) (ht : padStep v s = .next t) :
    CtlInv t := by
  obtain ⟨hne, hwhole, -, hlen, -, -⟩ := (ctlInv_iff_of_pad hp).1 hs
  obtain ⟨hlt, ⟨hroom, rfl⟩ | ⟨hlast, rfl⟩⟩ := pushByte_cases ht
  · obtain ⟨hl, hz, hm⟩ := nextPStage_fits hlen
    exact (ctlInv_iff_of_pad (by exact hp)).2
      ⟨hne, hwhole, Nat.le_of_lt_succ hroom, hl, hz, fun h => absurd h hm⟩
  · obtain ⟨ha, hpad, hout⟩ := padRet_fits (s := s) hlast
    exact (ctlInv_iff_of_compressing rfl).2 ⟨hne, hwhole, hlast, fun h => absurd h ha, hpad, hout⟩

/-- Within a compression only the round variables, the schedule, `t` and `phase` change, and the invariant is of
none of them but `phase`. -/
theorem ctlInv_of_changesOnly_of_compressing {s t : State} (hs : CtlInv s) (hp : Compressing s.phase = true)
    (hq : Compressing t.phase = true) (h : ChangesOnly [.vars, .w, .t, .phase] s t) : CtlInv t := by
  obtain ⟨-, -, -, -, hml, hfill, -, -, -, hpst, hret, herr⟩ := h
  obtain ⟨he, hcode⟩ := herr (by decide)
  rw [ctlInv_iff_of_compressing hp] at hs
  rw [ctlInv_iff_of_compressing hq]
  simpa only [NoError, WholeBytes, messageFill, he, hcode, hml (by decide), hfill (by decide), hpst (by decide),
    hret (by decide)] using hs

theorem compressing_advanceT {last : Phase} {s : State} (hp : Compressing s.phase = true)
    (hl : Compressing last = true) : Compressing (advanceT last s).phase = true := by
  rw [advanceT_phase]
  split <;> assumption

/-- R177: what `ret` says of `pstage` and `ml` is what its phase asks for. -/
theorem ctlInv_fold {s : State} (hs : CtlInv s) (hp : s.phase = .fold) :
    CtlInv { s with h := foldVars s.h s.vars, fill := 0, oidx := foldOidx s, phase := s.ret.phase } := by
  obtain ⟨hne, hwhole, -, habsorb, hpad, -⟩ := (ctlInv_iff_of_compressing (by rw [hp]; rfl)).1 hs
  cases hr : s.ret with
  | absorb => exact (ctlInv_iff_of_absorb rfl).2 ⟨hne, hwhole, (habsorb hr).symm⟩
  | pad =>
    have hz := hpad hr
    exact (ctlInv_iff_of_pad rfl).2 ⟨hne, hwhole, Nat.zero_le _, by simp [hz], by simp, by simp [hz]⟩
  | out => exact (ctlInv_iff_of_out rfl).2 ⟨hne, hwhole⟩

theorem Effect.keeps_ctlInv {i : Instr} {s t : State} (hs : CtlInv s) (h : Effect s i t) : CtlInv t := by
  cases h with
  | waits => exact hs
  | init hp => exact ctlInv_init hs hp
  | data hp ht => exact ctlInv_data hs hp ht
  | final hp => exact ctlInv_final hs hp
  | outOfSequence hi hp hc => exact ctlInv_raiseFault hc s
  | take hp => exact ctlInv_take hs hp
  | reset => exact ctlInv_leaveToIdle s
  | pad hp hfill ht => exact ctlInv_pad hs hp ht
  | schedule hp =>
    have hc : Compressing s.phase = true := by rw [hp]; rfl
    exact ctlInv_of_changesOnly_of_compressing hs hc (compressing_advanceT hc rfl)
      (changesOnly_mono (changesOnly_scheduleStep s) (by decide))
  | binit hp =>
    exact ctlInv_of_changesOnly_of_compressing hs (by rw [hp]; rfl) rfl
      (by simp [ChangesOnly])
  | round hp =>
    have hc : Compressing s.phase = true := by rw [hp]; rfl
    exact ctlInv_of_changesOnly_of_compressing hs hc (compressing_advanceT (s := s.setVars _) hc rfl)
      (by simp [ChangesOnly])
  | fold hp => exact ctlInv_fold hs hp

/-! ### FAULT -/

/-- R83: a command word decodes to a host command. -/
theorem command_of_decode {w : CmdWord} {i : Instr} (h : decode (.cmd w) = .ok i) :
    i = .init ∨ (∃ b, i = .data b) ∨ i = .final := by
  simp only [decode, decodeCmd] at h
  split_ifs at h <;> cases h <;> simp

/-- R134: in FAULT every word is discarded. -/
theorem transfer_of_fault {s : State} (hp : s.phase = .fault) (w : CmdWord) : transfer w s = .next s := by
  have hna : s.phase ≠ .idle ∧ s.phase ≠ .absorb ∧ s.phase ≠ .out := by simp [hp]
  rcases transfer_cases w s with ⟨i, hi, ht⟩ | ⟨-, ht⟩
  · rw [ht]
    rcases command_of_decode (decode?_eq_some_iff.1 hi) with rfl | ⟨b, rfl⟩ | rfl
    all_goals
      unfold exec
      exact acceptCommand_of_not_accepting hna
  · exact ht.trans (acceptCommand_of_not_accepting hna)

/-- R134, R208: in FAULT a step without reset changes nothing but the input levels. -/
theorem step_of_fault {s : State} (hp : s.phase = .fault) (hr : s.pins.rst = false) :
    step s = .next (passInput s.pins.cmdValid s) := by
  have ht : pinEvent s ≠ some .take := by simp [outValid, hp]
  rw [step_of_ready hr (by simp [cmdReady, Phase.cmdReady, hp])]
  cases hv : s.pins.cmdValid
  · exact hostEdge_of_waiting ht hv
  · exact (hostEdge_of_command ht hv).trans (transfer_of_fault (s := passInput true s) hp _)

/-! ### The statements -/

/-- Settles O43: every effect an instruction can have keeps the invariant, so every step does. -/
theorem controlInvariantKept : Obligations.ControlInvariantKept := fun _ _ hs h =>
  step_keeps (P := CtlInv) (fun acted _ hs => ctlInv_passInput acted hs) (fun _ _ _ hs he => he.keeps_ctlInv hs)
    (fun s _ => ctlInv_raiseFault (by decide) s) hs h

/-- Settles O41: under the invariant `err = 1` is FAULT, where a step changes the input levels only. -/
theorem errIsSticky : Obligations.ErrIsSticky := by
  intro s t hs h he hr
  have hp : s.phase = .fault := hs.1.1.1 he
  cases (step_of_fault hp hr).symm.trans h
  exact ⟨he, rfl, hp⟩

end Sys2Proof.Machine
end

section
/-! SUPPORT. The data invariant of R39: the schedule by its recurrence (R113), and every step keeps it. -/
namespace Sys2Proof.Machine

open Sys2Proof.Safety

/-! ### The schedule by its recurrence -/

theorem scheduleUpTo_succ {n : Nat} (chunk : Vector Byte 64) (h : n < 80) :
    scheduleUpTo chunk (n + 1) =
      (scheduleUpTo chunk n).set n (scheduleWord chunk (scheduleUpTo chunk n) ⟨n, h⟩) := by
  rw [scheduleUpTo, dif_pos h]

/-- R162: a word of the schedule, once built, stays. -/
theorem scheduleUpTo_get_of_lt (chunk : Vector Byte 64) (i : Fin 80) {n : Nat} (hi : i.val < n) (hn : n ≤ 80) :
    (scheduleUpTo chunk n)[i] = scheduleWord chunk (scheduleUpTo chunk i) i := by
  induction n, Nat.succ_le_of_lt hi using Nat.le_induction with
  | base =>
    rw [scheduleUpTo_succ chunk i.isLt]
    exact Vector.getElem_set_self _
  | succ m hm ih =>
    rw [scheduleUpTo_succ chunk (by omega), ← ih (by omega) (by omega)]
    exact Vector.getElem_set_ne _ _ (by omega)

/-- R113: an expanded word reads the words before it only. -/
theorem expandWord_congr {w w' : Vector Word 80} {i : Fin 80} (hi : 16 ≤ i.val)
    (h : ∀ j : Fin 80, j.val < i.val → w[j] = w'[j]) : expandWord w i = expandWord w' i := by
  have hk : ∀ k, 1 ≤ k → k ≤ 16 → w[i.val - k] = w'[i.val - k] := fun k h1 _ =>
    h ⟨i.val - k, by omega⟩ (Nat.sub_lt (by omega) h1)
  rw [expandWord, expandWord, hk 3 (by omega) (by omega), hk 8 (by omega) (by omega), hk 14 (by omega) (by omega),
    hk 16 (by omega) (by omega)]

theorem scheduleWord_congr {w w' : Vector Word 80} {i : Fin 80} (chunk : Vector Byte 64)
    (h : ∀ j : Fin 80, j.val < i.val → w[j] = w'[j]) : scheduleWord chunk w i = scheduleWord chunk w' i := by
  unfold scheduleWord
  split
  · rfl
  · exact expandWord_congr (by omega) h

/-- R113: every word of the schedule is the one its recurrence gives. -/
theorem schedule_get (chunk : Vector Byte 64) (i : Fin 80) :
    (schedule chunk)[i] = scheduleWord chunk (schedule chunk) i := by
  rw [schedule, scheduleUpTo_get_of_lt chunk i i.isLt le_rfl]
  refine scheduleWord_congr chunk fun j hj => ?_
  rw [scheduleUpTo_get_of_lt chunk j hj i.isLt.le, scheduleUpTo_get_of_lt chunk j j.isLt le_rfl]

theorem roundsUpTo_succ (w : Vector Word 80) (v : RoundVars) (t : Fin 80) :
    roundsUpTo w v (t.val + 1) = roundFn w t (roundsUpTo w v t.val) := by
  rw [roundsUpTo, dif_pos t.isLt]

/-! ### The data invariant by phase -/

theorem dataInv_of_not_compressing {s : State} (hp : Compressing s.phase = false) : DataInv s := by
  have hne : s.phase ≠ .sched ∧ s.phase ≠ .binit ∧ s.phase ≠ .round ∧ s.phase ≠ .fold := by
    cases h : s.phase <;> simp_all [Compressing]
  simp [DataInv, SchedBuilt, RoundsDone, hne]

theorem dataInv_iff_of_sched {s : State} (hp : s.phase = .sched) :
    DataInv s ↔ ∀ i : Fin 80, i.val < s.t.val → s.w[i] = (schedule s.chunk)[i] := by
  simp [DataInv, SchedBuilt, RoundsDone, hp]

theorem dataInv_iff_of_binit {s : State} (hp : s.phase = .binit) : DataInv s ↔ s.w = schedule s.chunk := by
  simp [DataInv, SchedBuilt, RoundsDone, hp]

theorem dataInv_iff_of_round {s : State} (hp : s.phase = .round) :
    DataInv s ↔ s.w = schedule s.chunk ∧ s.vars = roundsUpTo (schedule s.chunk) (varsOf s.h) s.t.val := by
  simp [DataInv, SchedBuilt, RoundsDone, hp]

theorem dataInv_iff_of_fold {s : State} (hp : s.phase = .fold) :
    DataInv s ↔ s.vars = roundsUpTo (schedule s.chunk) (varsOf s.h) 80 := by
  simp [DataInv, SchedBuilt, RoundsDone, hp]

/-! ### What keeps the data invariant -/

theorem dataInv_pushByte {v : Byte} {r : Ret} {s t : State} (hp : Compressing s.phase = false)
    (ht : pushByte v r s = .next t) : DataInv t := by
  obtain ⟨hlt, ⟨-, rfl⟩ | ⟨-, rfl⟩⟩ := pushByte_cases ht
  · exact dataInv_of_not_compressing hp
  · exact (dataInv_iff_of_sched rfl).2 fun i hi => absurd hi (Nat.not_lt_zero _)

/-- R50: the step writes the word at `t` and no other. -/
theorem scheduleStep_w_get (s : State) (i : Fin 80) :
    (scheduleStep s).w[i] = if i = s.t then scheduleWord s.chunk s.w s.t else s.w[i] := by
  split
  next h =>
    subst h
    exact Vector.getElem_set_self _
  next h => exact Vector.getElem_set_ne s.t.isLt i.isLt fun he => h (Fin.ext he.symm)

/-- R162: the step at `t` adds the schedule's word at `t`. -/
theorem scheduleStep_get {s : State} (hw : ∀ i : Fin 80, i.val < s.t.val → s.w[i] = (schedule s.chunk)[i])
    (i : Fin 80) (hi : i.val ≤ s.t.val) : (scheduleStep s).w[i] = (schedule s.chunk)[i] := by
  rw [scheduleStep_w_get]
  split
  next h => rw [h, scheduleWord_congr s.chunk hw, schedule_get]
  next h => exact hw i (Nat.lt_of_le_of_ne hi fun he => h (Fin.ext he))

theorem dataInv_scheduleStep {s : State} (hs : DataInv s) (hp : s.phase = .sched) : DataInv (scheduleStep s) := by
  have hw := scheduleStep_get ((dataInv_iff_of_sched hp).1 hs)
  by_cases h : s.t.val < 79
  · have hp' : (scheduleStep s).phase = .sched := by simp [scheduleStep, h, hp]
    have ht' : (scheduleStep s).t.val = s.t.val + 1 := by simp [scheduleStep, nextT, h]
    exact (dataInv_iff_of_sched hp').2 fun i hi => hw i (by omega)
  · have hp' : (scheduleStep s).phase = .binit := by simp [scheduleStep, h]
    have h79 : s.t.val = 79 := by omega
    exact (dataInv_iff_of_binit hp').2 (Vector.ext fun i hi => hw ⟨i, hi⟩ (h79 ▸ Nat.le_of_lt_succ hi))

theorem dataInv_binit {s : State} (hs : DataInv s) (hp : s.phase = .binit) :
    DataInv { s.setVars (varsOf s.h) with t := 0, phase := .round } :=
  (dataInv_iff_of_round rfl).2 ⟨(dataInv_iff_of_binit hp).1 hs, rfl⟩

/-- R116: the round at `t` adds round `t` to the rounds below it. -/
theorem dataInv_round {s : State} (hs : DataInv s) (hp : s.phase = .round) :
    DataInv (roundStep (stageFn (stage s.t)) K[(stage s.t).val] s) := by
  obtain ⟨hw, hv⟩ := (dataInv_iff_of_round hp).1 hs
  have hvars : (roundStep (stageFn (stage s.t)) K[(stage s.t).val] s).vars =
      roundsUpTo (schedule s.chunk) (varsOf s.h) (s.t.val + 1) := by
    rw [roundsUpTo_succ, roundStep_vars, hv, hw, roundFn]
  by_cases h : s.t.val < 79
  · refine (dataInv_iff_of_round (by simp [h, hp])).2 ⟨hw, ?_⟩
    simpa [nextT, h] using hvars
  · refine (dataInv_iff_of_fold (by simp [h])).2 ?_
    have h80 : s.t.val + 1 = 80 := by omega
    simpa [h80] using hvars

theorem Effect.keeps_dataInv {i : Instr} {s t : State} (hs : DataInv s) (h : Effect s i t) : DataInv t := by
  cases h with
  | waits => exact hs
  | init | final | outOfSequence | reset => exact dataInv_of_not_compressing rfl
  | data hp ht | pad hp _ ht => exact dataInv_pushByte (by simp [Compressing, hp]) ht
  | take hp =>
    refine dataInv_of_not_compressing ?_
    rw [advanceOidx_phase]
    split <;> simp [Compressing, hp]
  | schedule hp => exact dataInv_scheduleStep hs hp
  | binit hp => exact dataInv_binit hs hp
  | round hp => exact dataInv_round hs hp
  | fold => exact dataInv_of_not_compressing (by cases s.ret <;> rfl)

/-! ### The statements -/

/-- Settles O44: every effect an instruction can have keeps the invariant, so every step does. -/
theorem dataInvariantKept : Obligations.DataInvariantKept := fun _ _ hs h =>
  step_keeps (P := DataInv) (fun _ _ hs => hs) (fun _ _ _ hs he => he.keeps_dataInv hs)
    (fun _ _ => dataInv_of_not_compressing rfl) hs h

/-- Settles O42, by what the invariants ask of IDLE. -/
theorem controlInvariantAtReset : Obligations.ControlInvariantAtReset :=
  ⟨(ctlInv_iff_of_idle rfl).2 ⟨rfl, rfl⟩, dataInv_of_not_compressing rfl⟩

end Sys2Proof.Machine
end

section
/-! SUPPORT. Contents that are not live (R41) reach no port: `LiveEq` is kept by every step of the two states. -/
namespace Sys2Proof.Machine

open Sys2Proof.Safety

/-! ### What is live, by phase -/

/-- What is live in every phase, besides the phase. -/
def SameFace (s1 s2 : State) : Prop :=
  s1.err = s2.err ∧ s1.errCode = s2.errCode ∧ s1.inputs = s2.inputs ∧ s1.delivered = s2.delivered

/-- What is live while the chunk fills. -/
def SameFilling (s1 s2 : State) : Prop :=
  s1.h = s2.h ∧ s1.ml = s2.ml ∧ s1.fill = s2.fill ∧ ∀ k : Fin 64, k.val < s1.fill.val → s1.chunk[k] = s2.chunk[k]

/-- What is live all through a compression: `h`, and what the phase after it reads. -/
def SameReturn (s1 s2 : State) : Prop :=
  s1.h = s2.h ∧ s1.ml = s2.ml ∧ s1.ret = s2.ret ∧ (s1.ret = .pad → s1.pstage = s2.pstage)

section
variable {s1 s2 : State}

theorem liveEq_phase (h : LiveEq s1 s2) : s2.phase = s1.phase := h.1.symm

theorem liveEq_face (h : LiveEq s1 s2) : SameFace s1 s2 := by
  obtain ⟨-, he, hc, hi, hd, -⟩ := h
  exact ⟨he, hc, hi, hd⟩

theorem liveEq_iff_of_idle (h1 : s1.phase = .idle) (h2 : s2.phase = .idle) : LiveEq s1 s2 ↔ SameFace s1 s2 := by
  simp [LiveEq, SameFace, h1, h2]

theorem liveEq_iff_of_fault (h1 : s1.phase = .fault) (h2 : s2.phase = .fault) : LiveEq s1 s2 ↔ SameFace s1 s2 := by
  simp [LiveEq, SameFace, h1, h2]

theorem liveEq_iff_of_absorb (h1 : s1.phase = .absorb) (h2 : s2.phase = .absorb) :
    LiveEq s1 s2 ↔ SameFace s1 s2 ∧ SameFilling s1 s2 := by
  simp [LiveEq, SameFace, SameFilling, h1, h2, and_assoc]

theorem liveEq_iff_of_pad (h1 : s1.phase = .pad) (h2 : s2.phase = .pad) :
    LiveEq s1 s2 ↔ SameFace s1 s2 ∧ SameFilling s1 s2 ∧ s1.pstage = s2.pstage := by
  simp [LiveEq, SameFace, SameFilling, h1, h2, and_assoc, and_comm, and_left_comm]

theorem liveEq_iff_of_sched (h1 : s1.phase = .sched) (h2 : s2.phase = .sched) :
    LiveEq s1 s2 ↔ SameFace s1 s2 ∧ SameReturn s1 s2 ∧ s1.chunk = s2.chunk ∧ s1.t = s2.t ∧
      ∀ k : Fin 80, k.val < s1.t.val → s1.w[k] = s2.w[k] := by
  simp [LiveEq, SameFace, SameReturn, h1, h2, and_assoc]

theorem liveEq_iff_of_binit (h1 : s1.phase = .binit) (h2 : s2.phase = .binit) :
    LiveEq s1 s2 ↔ SameFace s1 s2 ∧ SameReturn s1 s2 ∧ s1.w = s2.w := by
  simp [LiveEq, SameFace, SameReturn, h1, h2, and_assoc]

theorem liveEq_iff_of_round (h1 : s1.phase = .round) (h2 : s2.phase = .round) :
    LiveEq s1 s2 ↔ SameFace s1 s2 ∧ SameReturn s1 s2 ∧ s1.w = s2.w ∧ s1.vars = s2.vars ∧ s1.t = s2.t := by
  simp [LiveEq, SameFace, SameReturn, h1, h2, and_assoc]

theorem liveEq_iff_of_fold (h1 : s1.phase = .fold) (h2 : s2.phase = .fold) :
    LiveEq s1 s2 ↔ SameFace s1 s2 ∧ SameReturn s1 s2 ∧ s1.vars = s2.vars := by
  simp [LiveEq, SameFace, SameReturn, h1, h2, and_assoc]

theorem liveEq_iff_of_out (h1 : s1.phase = .out) (h2 : s2.phase = .out) :
    LiveEq s1 s2 ↔ SameFace s1 s2 ∧ s1.h = s2.h ∧ s1.oidx = s2.oidx := by
  simp [LiveEq, SameFace, h1, h2, and_assoc]

/-- Of an empty chunk no byte is live. -/
theorem sameFilling_of_empty (hh : s1.h = s2.h) (hml : s1.ml = s2.ml) (hf1 : s1.fill = 0) (hf2 : s2.fill = 0) :
    SameFilling s1 s2 := by
  refine ⟨hh, hml, hf1.trans hf2.symm, fun k hk => ?_⟩
  rw [hf1] at hk
  exact absurd hk (Nat.not_lt_zero _)

/-! ### What the ports show -/

theorem outValid_of_liveEq (h : LiveEq s1 s2) : outValid s1 = outValid s2 := by
  rw [outValid, outValid, liveEq_phase h]

theorem outData_of_liveEq (h : LiveEq s1 s2) : outData s1 = outData s2 := by
  unfold outData
  rw [← outValid_of_liveEq h]
  split
  next hv =>
    have hp : s1.phase = .out := by simpa [outValid] using hv
    obtain ⟨-, hh, ho⟩ := (liveEq_iff_of_out hp ((liveEq_phase h).trans hp)).1 h
    rw [hh, ho]
  next => rfl

theorem outputs_of_liveEq (h : LiveEq s1 s2) : outputs s1 = outputs s2 := by
  obtain ⟨he, hc, -, -⟩ := liveEq_face h
  rw [outputs, outputs, cmdReady, cmdReady, liveEq_phase h, outValid_of_liveEq h, outData_of_liveEq h, he, hc]

theorem pins_of_liveEq (h : LiveEq s1 s2) : s1.pins = s2.pins := by
  obtain ⟨-, -, hi, -⟩ := liveEq_face h
  rw [State.pins, State.pins, hi]

theorem pinEvent_of_liveEq (h : LiveEq s1 s2) : pinEvent s1 = pinEvent s2 := by
  rw [pinEvent_eq, pinEvent_eq, pins_of_liveEq h, outValid_of_liveEq h]

end

/-! ### Answers that agree -/

/-- Two answers that nothing at the ports tells apart: next states that agree on what is live, or the same stop. -/
inductive Agree : Result → Result → Prop
  | next {t1 t2 : State} (h : LiveEq t1 t2) : Agree (.next t1) (.next t2)
  | fault (f : Fault) : Agree (.fault f) (.fault f)

theorem agree_andThen {r1 r2 : Result} {k : State → Result} (hr : Agree r1 r2)
    (hk : ∀ t1 t2, LiveEq t1 t2 → Agree (k t1) (k t2)) : Agree (andThen r1 k) (andThen r2 k) := by
  cases hr with
  | next h => exact hk _ _ h
  | fault f => exact .fault f

section
variable {s1 s2 : State}

theorem liveEq_passInput (acted : Bool) (h : LiveEq s1 s2) : LiveEq (passInput acted s1) (passInput acted s2) := by
  obtain ⟨hp, he, hc, hi, hd, hlive⟩ := h
  exact ⟨hp, he, hc, congrArg (inputsAfter acted) hi, hd, hlive⟩

theorem agree_reset (h : LiveEq s1 s2) : Agree (exec .reset s1) (exec .reset s2) := by
  obtain ⟨-, -, hi, hd⟩ := liveEq_face h
  exact .next ((liveEq_iff_of_idle rfl rfl).2 ⟨rfl, rfl, hi, hd⟩)

theorem agree_raiseFault (code : BitVec 2) (h : LiveEq s1 s2) :
    Agree (.next (raiseFault code s1)) (.next (raiseFault code s2)) := by
  obtain ⟨-, -, hi, hd⟩ := liveEq_face h
  exact .next ((liveEq_iff_of_fault rfl rfl).2 ⟨rfl, rfl, hi, hd⟩)

theorem agree_take (h : LiveEq s1 s2) : Agree (exec .take s1) (exec .take s2) := by
  change Agree (execTake s1) (execTake s2)
  unfold execTake
  rw [← outValid_of_liveEq h]
  split
  next hv =>
    have hp : s1.phase = .out := by simpa [outValid] using hv
    have hp2 : s2.phase = .out := (liveEq_phase h).trans hp
    obtain ⟨⟨he, hc, hi, hd⟩, hh, ho⟩ := (liveEq_iff_of_out hp hp2).1 h
    have hdel : (deliver s1).delivered = (deliver s2).delivered := by
      rw [deliver_delivered, deliver_delivered, hd, outData_of_liveEq h]
    by_cases hlt : s1.oidx.val < 19
    · have hlt2 : s2.oidx.val < 19 := ho ▸ hlt
      exact .next ((liveEq_iff_of_out (by simp [hlt, hp]) (by simp [hlt2, hp2])).2
        ⟨⟨he, hc, hi, hdel⟩, hh, by simp [nextOidx, hlt2, ho]⟩)
    · have hlt2 : ¬ s2.oidx.val < 19 := ho ▸ hlt
      exact .next ((liveEq_iff_of_idle (by simp [hlt]) (by simp [hlt2])).2 ⟨he, hc, hi, hdel⟩)
  next => exact .next h

/-! ### Filling the chunk -/

theorem sameFilling_withByte {v : Byte} (h1 : s1.fill.val < 64) (h2 : s2.fill.val < 64) (hf : SameFilling s1 s2) :
    SameFilling (withByte v s1 h1) (withByte v s2 h2) := by
  obtain ⟨hh, hml, hfill, hchunk⟩ := hf
  refine ⟨hh, hml, Fin.ext (congrArg (fun f : Fin 65 => f.val + 1) hfill), fun k hk => ?_⟩
  rw [withByte_chunk_get, withByte_chunk_get, ← hfill]
  split
  · rfl
  · next hne => exact hchunk k (Nat.lt_of_le_of_ne (Nat.le_of_lt_succ hk) hne)

theorem agree_pushByte {v : Byte} {r : Ret} (hphase : s1.phase = s2.phase) (hface : SameFace s1 s2)
    (hf : SameFilling s1 s2) (hp : s1.phase = .absorb ∨ s1.phase = .pad ∧ s1.pstage = s2.pstage)
    (hr : r = .pad → s1.pstage = s2.pstage) : Agree (pushByte v r s1) (pushByte v r s2) := by
  have hfill : s1.fill.val = s2.fill.val := congrArg Fin.val hf.2.2.1
  have hle := s1.fill.isLt
  by_cases hroom : s1.fill.val + 1 < 64
  · rw [pushByte_of_room hroom, pushByte_of_room (hfill ▸ hroom)]
    have hf' := sameFilling_withByte (v := v) (by omega) (by omega) hf
    rcases hp with hp | ⟨hp, hst⟩
    · exact .next ((liveEq_iff_of_absorb (by exact hp) (by exact hphase ▸ hp)).2 ⟨hface, hf'⟩)
    · exact .next ((liveEq_iff_of_pad (by exact hp) (by exact hphase ▸ hp)).2 ⟨hface, hf', hst⟩)
  by_cases hlast : s1.fill.val + 1 = 64
  · rw [pushByte_of_last hlast, pushByte_of_last (hfill ▸ hlast)]
    obtain ⟨hh, hml, -, hchunk⟩ := sameFilling_withByte (v := v) (by omega) (by omega) hf
    have hall : (withByte v s1 (by omega)).chunk = (withByte v s2 (by omega)).chunk :=
      Vector.ext fun k hk => hchunk ⟨k, hk⟩ (Nat.lt_of_lt_of_eq hk hlast.symm)
    exact .next ((liveEq_iff_of_sched rfl rfl).2
      ⟨hface, ⟨hh, hml, rfl, hr⟩, hall, rfl, fun k hk => absurd hk (Nat.not_lt_zero _)⟩)
  · rw [pushByte_of_full (by omega), pushByte_of_full (by omega)]
    exact .fault _

/-! ### The host commands -/

theorem agree_acceptCommand {k : State → Result} (h : LiveEq s1 s2)
    (hk : Accepting s1 → Agree (k s1) (k s2)) : Agree (acceptCommand k s1) (acceptCommand k s2) := by
  by_cases ha : Accepting s1
  · have ha2 : Accepting s2 := by rwa [Accepting, liveEq_phase h]
    rw [acceptCommand_of_accepting ha, acceptCommand_of_accepting ha2]
    exact hk ha
  · have hna : s1.phase ≠ .idle ∧ s1.phase ≠ .absorb ∧ s1.phase ≠ .out := by simpa [Accepting] using ha
    have hna2 : s2.phase ≠ .idle ∧ s2.phase ≠ .absorb ∧ s2.phase ≠ .out := by rwa [liveEq_phase h]
    rw [acceptCommand_of_not_accepting hna, acceptCommand_of_not_accepting hna2]
    exact .next h

theorem agree_sequenced {k : State → Result} {code : BitVec 2} (h : LiveEq s1 s2)
    (hk : s1.phase = .absorb → s2.phase = .absorb → Agree (k s1) (k s2)) :
    Agree (if s1.phase = .absorb then k s1 else .next (raiseFault code s1))
      (if s2.phase = .absorb then k s2 else .next (raiseFault code s2)) := by
  by_cases hp : s1.phase = .absorb
  · have hp2 : s2.phase = .absorb := (liveEq_phase h).trans hp
    rw [if_pos hp, if_pos hp2]
    exact hk hp hp2
  · have hp2 : s2.phase ≠ .absorb := by rwa [liveEq_phase h]
    rw [if_neg hp, if_neg hp2]
    exact agree_raiseFault code h

theorem agree_init (h : LiveEq s1 s2) : Agree (execInit s1) (execInit s2) := by
  have hface := liveEq_face h
  exact agree_acceptCommand h fun _ => .next ((liveEq_iff_of_absorb rfl rfl).2
    ⟨hface, sameFilling_of_empty rfl rfl rfl rfl⟩)

theorem agree_data (b : Byte) (h : LiveEq s1 s2) : Agree (execData b s1) (execData b s2) :=
  agree_acceptCommand h fun _ =>
    agree_sequenced (k := fun s => pushByte b .absorb { s with ml := s.ml + 8 }) h fun hp hp2 => by
      obtain ⟨hface, hh, hml, hfill, hchunk⟩ := (liveEq_iff_of_absorb hp hp2).1 h
      exact agree_pushByte (hp.trans hp2.symm) hface ⟨hh, congrArg (· + 8) hml, hfill, hchunk⟩ (.inl hp) nofun

theorem agree_final (h : LiveEq s1 s2) : Agree (execFinal s1) (execFinal s2) :=
  agree_acceptCommand h fun _ =>
    agree_sequenced (k := fun s => .next { s with pstage := .mark, phase := .pad }) h fun hp hp2 => by
      obtain ⟨hface, hfilling⟩ := (liveEq_iff_of_absorb hp hp2).1 h
      exact .next ((liveEq_iff_of_pad rfl rfl).2 ⟨hface, hfilling, rfl⟩)

theorem agree_transfer (w : CmdWord) (h : LiveEq s1 s2) : Agree (transfer w s1) (transfer w s2) := by
  cases hd : decode (.cmd w) with
  | error r =>
    rw [transfer_of_error hd, transfer_of_error hd]
    exact agree_acceptCommand h fun _ => agree_raiseFault illegalCmd h
  | ok i =>
    rw [transfer_of_ok hd, transfer_of_ok hd]
    rcases command_of_decode hd with rfl | ⟨b, rfl⟩ | rfl
    · exact agree_init h
    · exact agree_data b h
    · exact agree_final h

/-! ### The micro-operations -/

theorem agree_padStep (v : Byte) (h : LiveEq s1 s2) (hp : s1.phase = .pad) (hp2 : s2.phase = .pad) :
    Agree (padStep v s1) (padStep v s2) := by
  obtain ⟨hface, hfilling, hst⟩ := (liveEq_iff_of_pad hp hp2).1 h
  have hfill : s1.fill = s2.fill := hfilling.2.2.1
  have hnext : nextPStage s1 = nextPStage s2 := by rw [nextPStage, nextPStage, hst, hfill]
  have hret : padRet s1 = padRet s2 := by rw [padRet, padRet, hst]
  rw [padStep_eq, padStep_eq, hret]
  exact agree_pushByte (hp.trans hp2.symm) hface hfilling (.inr ⟨hp, hnext⟩) fun _ => hnext

theorem agree_padInstr (h : LiveEq s1 s2) (hp : s1.phase = .pad) (hp2 : s2.phase = .pad) :
    Agree (exec (padInstr s1.pstage) s1) (exec (padInstr s1.pstage) s2) := by
  obtain ⟨-, ⟨-, hml, hfill, -⟩, hst⟩ := (liveEq_iff_of_pad hp hp2).1 h
  cases hs : s1.pstage with
  | mark =>
    rw [padInstr, exec_padmark hp hs, exec_padmark hp2 (hst ▸ hs)]
    exact agree_padStep _ h hp hp2
  | zero =>
    rw [padInstr, exec_padzero hp hs, exec_padzero hp2 (hst ▸ hs)]
    exact agree_padStep _ h hp hp2
  | len =>
    have hs2 : s2.pstage = .len := hst ▸ hs
    have hfv : s1.fill.val = s2.fill.val := congrArg Fin.val hfill
    have hle := s1.fill.isLt
    rcases Nat.lt_or_ge s1.fill.val 56 with hlow | hge
    · rw [padInstr, exec_padlen_of_low hp hs hlow, exec_padlen_of_low hp2 hs2 (hfv ▸ hlow)]
      exact .fault _
    rcases Nat.lt_or_ge (s1.fill.val - 56) 8 with hlt | hfull
    · rw [padInstr, exec_padlen_of_lengthByte hp hs hge hlt,
        exec_padlen_of_lengthByte hp2 hs2 (hfv ▸ hge) (hfv ▸ hlt)]
      simp only [← hfill, ← hml]
      exact agree_padStep _ h hp hp2
    · rw [padInstr, exec_padlen_of_full hp hs (by omega), exec_padlen_of_full hp2 hs2 (by omega)]
      exact .fault _

/-- R160, R161: the word at `t` is written from what is live. -/
theorem liveEq_scheduleStep (h : LiveEq s1 s2) (hp : s1.phase = .sched) (hp2 : s2.phase = .sched) :
    LiveEq (scheduleStep s1) (scheduleStep s2) := by
  obtain ⟨hface, hret, hchunk, ht, hw⟩ := (liveEq_iff_of_sched hp hp2).1 h
  have hword : scheduleWord s1.chunk s1.w s1.t = scheduleWord s2.chunk s2.w s2.t := by
    rw [← hchunk, ← ht]
    exact scheduleWord_congr s1.chunk hw
  have hw' : ∀ k : Fin 80, k.val ≤ s1.t.val → (scheduleStep s1).w[k] = (scheduleStep s2).w[k] := by
    intro k hk
    rw [scheduleStep_w_get, scheduleStep_w_get, ← ht, hword, ← ht]
    split
    · rfl
    · next hne => exact hw k (Nat.lt_of_le_of_ne hk fun he => hne (Fin.ext he))
  by_cases hlt : s1.t.val < 79
  · have hlt2 : s2.t.val < 79 := ht ▸ hlt
    have ht' : nextT s1 = nextT s2 := by simp [nextT, hlt2, ht]
    have hval : (nextT s1).val = s1.t.val + 1 := by simp [nextT, hlt]
    refine (liveEq_iff_of_sched (by simp [scheduleStep, hlt, hp]) (by simp [scheduleStep, hlt2, hp2])).2
      ⟨hface, hret, hchunk, ht', fun k hk => hw' k ?_⟩
    have hk : k.val < (nextT s1).val := hk
    omega
  · have hlt2 : ¬ s2.t.val < 79 := ht ▸ hlt
    have h79 : s1.t.val = 79 := by omega
    exact (liveEq_iff_of_binit (by simp [scheduleStep, hlt]) (by simp [scheduleStep, hlt2])).2
      ⟨hface, hret, Vector.ext fun k hk => hw' ⟨k, hk⟩ (h79 ▸ Nat.le_of_lt_succ hk)⟩

theorem liveEq_binit (h : LiveEq s1 s2) (hp : s1.phase = .binit) (hp2 : s2.phase = .binit) :
    LiveEq { s1.setVars (varsOf s1.h) with t := 0, phase := .round }
      { s2.setVars (varsOf s2.h) with t := 0, phase := .round } := by
  obtain ⟨hface, hret, hw⟩ := (liveEq_iff_of_binit hp hp2).1 h
  exact (liveEq_iff_of_round rfl rfl).2 ⟨hface, hret, hw, congrArg varsOf hret.1, rfl⟩

theorem liveEq_roundStep (f : Word → Word → Word → Word) (k : Word) (h : LiveEq s1 s2) (hp : s1.phase = .round)
    (hp2 : s2.phase = .round) : LiveEq (roundStep f k s1) (roundStep f k s2) := by
  obtain ⟨hface, hret, hw, hv, ht⟩ := (liveEq_iff_of_round hp hp2).1 h
  have hvars : (roundStep f k s1).vars = (roundStep f k s2).vars := by
    simp only [roundStep_vars, hw, hv, ht]
  by_cases hlt : s1.t.val < 79
  · have hlt2 : s2.t.val < 79 := ht ▸ hlt
    have ht' : nextT s1 = nextT s2 := by simp [nextT, hlt2, ht]
    exact (liveEq_iff_of_round (by simp [hlt, hp]) (by simp [hlt2, hp2])).2 ⟨hface, hret, hw, hvars, ht'⟩
  · have hlt2 : ¬ s2.t.val < 79 := ht ▸ hlt
    exact (liveEq_iff_of_fold (by simp [hlt]) (by simp [hlt2])).2 ⟨hface, hret, hvars⟩

/-- R177: what the phase after the compression reads is live all through it. -/
theorem agree_fold (h : LiveEq s1 s2) (hp : s1.phase = .fold) (hp2 : s2.phase = .fold) :
    Agree (exec .fold s1) (exec .fold s2) := by
  obtain ⟨hface, ⟨hh, hml, hr, hst⟩, hv⟩ := (liveEq_iff_of_fold hp hp2).1 h
  have hsum : foldVars s1.h s1.vars = foldVars s2.h s2.vars := by rw [hh, hv]
  rw [exec_fold hp, exec_fold hp2]
  cases hr1 : s1.ret with
  | absorb =>
    have hr2 : s2.ret = .absorb := hr ▸ hr1
    exact .next ((liveEq_iff_of_absorb rfl (by simp [hr2, Ret.phase])).2
      ⟨hface, sameFilling_of_empty hsum hml rfl rfl⟩)
  | pad =>
    have hr2 : s2.ret = .pad := hr ▸ hr1
    exact .next ((liveEq_iff_of_pad rfl (by simp [hr2, Ret.phase])).2
      ⟨hface, sameFilling_of_empty hsum hml rfl rfl, hst hr1⟩)
  | out =>
    have hr2 : s2.ret = .out := hr ▸ hr1
    exact .next ((liveEq_iff_of_out rfl (by simp [hr2, Ret.phase])).2 ⟨hface, hsum, by simp [foldOidx, hr1, hr2]⟩)

/-- The engine's next micro-operation is the same in both, with answers that agree. -/
theorem agree_microOp {i : Instr} (h : LiveEq s1 s2) (hi : microOp s1 = some i) :
    microOp s2 = some i ∧ Agree (exec i s1) (exec i s2) := by
  have hp2 := liveEq_phase h
  rw [microOp_eq] at hi ⊢
  cases hp : s1.phase with
  | idle | absorb | out | fault =>
    rw [hp] at hi
    cases hi
  | pad =>
    rw [hp] at hi hp2
    obtain ⟨-, -, hst⟩ := (liveEq_iff_of_pad hp hp2).1 h
    cases hi
    exact ⟨by rw [hp2, ← hst]; rfl, agree_padInstr h hp hp2⟩
  | sched =>
    rw [hp] at hi hp2
    obtain ⟨-, -, -, ht, -⟩ := (liveEq_iff_of_sched hp hp2).1 h
    cases hi
    rw [exec_schedInstr hp, ht, exec_schedInstr hp2, hp2]
    exact ⟨rfl, .next (liveEq_scheduleStep h hp hp2)⟩
  | binit =>
    rw [hp] at hi hp2
    cases hi
    rw [exec_binit hp, exec_binit hp2, hp2]
    exact ⟨rfl, .next (liveEq_binit h hp hp2)⟩
  | round =>
    rw [hp] at hi hp2
    obtain ⟨-, -, -, -, ht⟩ := (liveEq_iff_of_round hp hp2).1 h
    cases hi
    have hn : stage s1.t = stage s2.t := congrArg stage ht
    rw [hn, exec_roundInstr hp hn, exec_roundInstr hp2 rfl, hp2]
    exact ⟨rfl, .next (liveEq_roundStep _ _ h hp hp2)⟩
  | fold =>
    rw [hp] at hi hp2
    cases hi
    exact ⟨by rw [hp2]; rfl, agree_fold h hp hp2⟩

/-! ### The step -/

/-- R210: a take and a command on the same edge, the take first. -/
theorem hostEdge_of_take_and_command {s : State} (ht : pinEvent s = some .take) (hv : s.pins.cmdValid = true) :
    hostEdge s = andThen (exec .take (passInput true s)) (transfer s.pins.cmd) := by
  simp only [hostEdge, ht, hv, decide_true, Bool.or_true, if_true]

theorem agree_hostEdge (h : LiveEq s1 s2) : Agree (hostEdge s1) (hostEdge s2) := by
  have hpins := pins_of_liveEq h
  have hpass := liveEq_passInput true h
  by_cases ht : pinEvent s1 = some .take <;> cases hv : s1.pins.cmdValid
  all_goals
    have ht2 := pinEvent_of_liveEq h ▸ ht
    have hv2 := hpins ▸ hv
  · rw [hostEdge_of_take ht hv, hostEdge_of_take ht2 hv2]
    exact agree_take hpass
  · rw [hostEdge_of_take_and_command ht hv, hostEdge_of_take_and_command ht2 hv2, hpins]
    exact agree_andThen (agree_take hpass) fun _ _ => agree_transfer _
  · rw [hostEdge_of_waiting ht hv, hostEdge_of_waiting ht2 hv2]
    exact .next (liveEq_passInput false h)
  · rw [hostEdge_of_command ht hv, hostEdge_of_command ht2 hv2, hpins]
    exact agree_transfer _ hpass

theorem agree_step (h : LiveEq s1 s2) : Agree (step s1) (step s2) := by
  have hpins := pins_of_liveEq h
  cases hr : s1.pins.rst with
  | true =>
    rw [step_of_rst hr, step_of_rst (hpins ▸ hr)]
    exact agree_reset (liveEq_passInput true h)
  | false =>
    have hr2 : s2.pins.rst = false := hpins ▸ hr
    cases hm : microOp s1 with
    | some i =>
      obtain ⟨hm2, hagree⟩ := agree_microOp (liveEq_passInput false h) (i := i) hm
      rw [step_of_microOp hr hm, step_of_microOp hr2 hm2]
      exact hagree
    | none =>
      have hc : cmdReady s1 = true := by simpa [busy, hm] using microOp_isSome s1
      have hc2 : cmdReady s2 = true := by rwa [cmdReady, liveEq_phase h]
      rw [step_of_ready hr hc, step_of_ready hr2 hc2]
      exact agree_hostEdge h

end

/-- Settles O52: the two steps agree, and agreeing states show the same on every output port. -/
theorem deadContentsNeverShow : Obligations.DeadContentsNeverShow := by
  intro s1 s2 h
  refine ⟨outputs_of_liveEq h, ?_⟩
  have hstep := agree_step h
  generalize step s1 = r1, step s2 = r2 at hstep
  cases hstep with
  | next h => exact h
  | fault f => rfl

end Sys2Proof.Machine
end

section
/-! SUPPORT. The three formats of the opcode table (R83, R84, R92, R94): what each word decodes to, said once for the
command words and once for the tables of rows, and the statements of spec/30_encoding.md. -/
namespace Sys2Proof

open Sys2Proof.Machine

/-! ### The fields of a command word -/

@[simp] theorem cmdOp_append (op : BitVec 2) (b : Byte) : cmdOp (op ++ b) = op := BitVec.extractLsb'_append_eq_left

@[simp] theorem cmdOperand_append (op : BitVec 2) (b : Byte) : cmdOperand (op ++ b) = b :=
  BitVec.extractLsb'_append_eq_right

/-- R81: a command word is its two fields. -/
theorem cmdOp_append_cmdOperand (w : CmdWord) : cmdOp w ++ cmdOperand w = w :=
  (BitVec.extractLsb'_append_extractLsb'_eq_extractLsb' (x := w) rfl).trans BitVec.extractLsb'_eq_self

/-- A command word is determined by its two fields. -/
theorem append_eq_cmdWord_iff {op : BitVec 2} {b : Byte} {w : CmdWord} :
    op ++ b = w ↔ cmdOp w = op ∧ cmdOperand w = b := by
  constructor
  · rintro rfl
    exact ⟨cmdOp_append op b, cmdOperand_append op b⟩
  · rintro ⟨rfl, rfl⟩
    exact cmdOp_append_cmdOperand w

/-- R83: the mask of DATA's row holds the bits of `op`. -/
theorem cmdOp_eq_one_iff (w : CmdWord) : cmdOp w = 1#2 ↔ w &&& 0x300#10 = 0x100#10 := by
  have hmask : w &&& 0x300#10 = (cmdOp w &&& 3#2) ++ (cmdOperand w &&& 0#8) := by
    rw [← BitVec.and_append, cmdOp_append_cmdOperand]
    rfl
  have hop : cmdOp w &&& 3#2 = cmdOp w := BitVec.and_allOnes
  rw [hmask, hop, BitVec.and_zero]
  exact (BitVec.append_left_inj 0#8).symm

/-! ### The command words -/

theorem decode_encode (i : Instr) : decode (encode i) = .ok i := by
  cases i with
  | data b => simp [encode, decode, decodeCmd]
  | _ => decide

/-- R83: a command word decodes to an instruction exactly when it is that instruction's encoding. -/
theorem decode_cmd_eq_ok_iff {w : CmdWord} {i : Instr} : decode (.cmd w) = .ok i ↔ encode i = .cmd w := by
  refine ⟨fun h => ?_, fun h => h ▸ decode_encode i⟩
  simp only [decode, decodeCmd] at h
  split_ifs at h with hop hb hop hop hb
  all_goals cases h
  · exact congrArg TableWord.cmd (append_eq_cmdWord_iff.2 ⟨hop, hb⟩)
  · exact congrArg TableWord.cmd (append_eq_cmdWord_iff.2 ⟨hop, rfl⟩)
  · exact congrArg TableWord.cmd (append_eq_cmdWord_iff.2 ⟨hop, hb⟩)

theorem decode_cmd_eq_init_iff {w : CmdWord} : decode (.cmd w) = .ok .init ↔ w = 0x000#10 := by
  rw [decode_cmd_eq_ok_iff, encode, TableWord.cmd.injEq, eq_comm]

theorem decode_cmd_eq_data_iff {w : CmdWord} {b : Byte} :
    decode (.cmd w) = .ok (.data b) ↔ cmdOp w = 1#2 ∧ cmdOperand w = b := by
  rw [decode_cmd_eq_ok_iff, encode, TableWord.cmd.injEq, append_eq_cmdWord_iff]

theorem decode_cmd_eq_final_iff {w : CmdWord} : decode (.cmd w) = .ok .final ↔ w = 0x200#10 := by
  rw [decode_cmd_eq_ok_iff, encode, TableWord.cmd.injEq, eq_comm]

/-- A word is rejected exactly when it decodes to no instruction. -/
theorem exists_decode_error_iff {tw : TableWord} : (∃ r, decode tw = .error r) ↔ ∀ i, decode tw ≠ .ok i := by
  cases decode tw <;> simp

/-- R83, R84: a command word is rejected exactly when it matches no row. -/
theorem exists_decode_cmd_error_iff {w : CmdWord} :
    (∃ r, decode (.cmd w) = .error r) ↔ w ≠ 0x000#10 ∧ cmdOp w ≠ 1#2 ∧ w ≠ 0x200#10 := by
  rw [exists_decode_error_iff]
  constructor
  · intro h
    exact ⟨fun hw => h _ (decode_cmd_eq_init_iff.2 hw), fun hw => h _ (decode_cmd_eq_data_iff.2 ⟨hw, rfl⟩),
      fun hw => h _ (decode_cmd_eq_final_iff.2 hw)⟩
  · rintro ⟨hinit, hdata, hfinal⟩ i hi
    rcases command_of_decode hi with rfl | ⟨b, rfl⟩ | rfl
    · exact hinit (decode_cmd_eq_init_iff.1 hi)
    · exact hdata (decode_cmd_eq_data_iff.1 hi).1
    · exact hfinal (decode_cmd_eq_final_iff.1 hi)

/-- R84: the decoder rejects a command word exactly when it is not legal. -/
theorem exists_decode_cmd_error_iff_not_wf {w : CmdWord} :
    (∃ r, decode (.cmd w) = .error r) ↔ cmdWordWF w = false := by
  rw [exists_decode_cmd_error_iff]
  simp [cmdWordWF, cmdOp, and_assoc]

/-- R84: the reserved command words by value. -/
theorem cmdWordWF_eq_false_iff (w : CmdWord) : cmdWordWF w = false ↔
    (0x001 ≤ w.toNat ∧ w.toNat ≤ 0x0FF) ∨ (0x201 ≤ w.toNat ∧ w.toNat ≤ 0x2FF) ∨ 0x300 ≤ w.toNat := by
  have hlt : w.toNat < 1024 := w.isLt
  simp only [cmdWordWF, Bool.or_eq_false_iff, beq_eq_false_iff_ne, ne_eq, ← BitVec.toNat_inj,
    BitVec.extractLsb'_toNat, BitVec.toNat_ofNat, Nat.shiftRight_eq_div_pow]
  omega

/-- R84: the reserved words are `0x001..0x0FF` and `0x201..0x3FF`. -/
theorem reservedWords_eq : (Finset.range 1024).filter (fun n => !(cmdWordWF (BitVec.ofNat 10 n))) =
    Finset.Icc 0x001 0x0FF ∪ Finset.Icc 0x201 0x3FF := by
  ext n
  simp only [Finset.mem_filter, Finset.mem_range, Bool.not_eq_true', cmdWordWF_eq_false_iff, BitVec.toNat_ofNat,
    Finset.mem_union, Finset.mem_Icc]
  omega

/-- Counting over a list and over a finite set is the same. -/
theorem length_filter_range (p : Nat → Bool) (n : Nat) :
    ((List.range n).filter p).length = ((Finset.range n).filter (fun k => p k)).card := by
  rw [← List.countP_eq_length_filter, ← Nat.count_eq_card_filter_range]
  simp [Nat.count]

/-- R84: there are `255 + 511` reserved words. -/
theorem reservedWords_count : ((List.range 1024).filter (fun n => !(cmdWordWF (BitVec.ofNat 10 n)))).length = 766 := by
  have hdisj : Disjoint (Finset.Icc 0x001 0x0FF) (Finset.Icc 0x201 0x3FF) := by
    refine Finset.disjoint_left.2 fun n h1 h2 => ?_
    rw [Finset.mem_Icc] at h1 h2
    omega
  rw [length_filter_range, reservedWords_eq, Finset.card_union_of_disjoint hdisj, Nat.card_Icc, Nat.card_Icc]

/-! ### Tables of rows -/

/-- Two rows that no word matches both: their patterns differ in a bit that both masks hold. -/
abbrev Row.Clash {n : Nat} (r r' : Row n) : Prop := r.pattern &&& r'.mask ≠ r'.pattern &&& r.mask

theorem Row.accepts_iff {n : Nat} {r : Row n} {w : BitVec n} : r.accepts w = true ↔ w &&& r.mask = r.pattern := by
  simp [Row.accepts]

theorem Row.not_matches_of_clash {n : Nat} {r r' : Row n} {w : BitVec n} (h : r.Clash r')
    (hr : w &&& r.mask = r.pattern) : w &&& r'.mask ≠ r'.pattern := by
  intro hr'
  apply h
  calc r.pattern &&& r'.mask = w &&& r.mask &&& r'.mask := by rw [hr]
    _ = w &&& r'.mask &&& r.mask := by ac_rfl
    _ = r'.pattern &&& r.mask := by rw [hr']

/-- Where no word matches two rows, a word names the instruction of the row it matches. -/
theorem findRow_eq_some_iff {n : Nat} {rows : List (Row n)} (hrows : rows.Pairwise Row.Clash) {w : BitVec n}
    {i : Instr} : findRow rows w = some i ↔ ∃ r ∈ rows, w &&& r.mask = r.pattern ∧ r.instr = i := by
  induction rows with
  | nil => simp [findRow]
  | cons r rows ih =>
    obtain ⟨hr, hrest⟩ := List.pairwise_cons.1 hrows
    by_cases hw : w &&& r.mask = r.pattern
    · have hothers : ∀ r' ∈ rows, w &&& r'.mask ≠ r'.pattern := fun r' hmem =>
        Row.not_matches_of_clash (hr r' hmem) hw
      have hnone : ¬ ∃ r' ∈ rows, w &&& r'.mask = r'.pattern ∧ r'.instr = i := fun ⟨r', hmem, hw', _⟩ =>
        hothers r' hmem hw'
      simp [findRow, Row.accepts, hw, hnone]
    · simpa [findRow, Row.accepts, hw] using ih hrest

theorem findRow_eq_none_iff {n : Nat} {rows : List (Row n)} {w : BitVec n} :
    findRow rows w = none ↔ ∀ r ∈ rows, w &&& r.mask ≠ r.pattern := by
  simp [findRow, Row.accepts_iff]

/-- R92: no selector matches two rows. -/
theorem selRows_pairwise_clash : selRows.Pairwise Row.Clash := by decide

/-- R94: no pin levels match two rows. -/
theorem pinRows_pairwise_clash : pinRows.Pairwise Row.Clash := by decide

theorem decode_seq_eq_ok_iff {w : SelWord} {i : Instr} :
    decode (.seq w) = .ok i ↔ ∃ r ∈ selRows, w &&& r.mask = r.pattern ∧ r.instr = i := by
  rw [← findRow_eq_some_iff selRows_pairwise_clash]
  cases h : findRow selRows w <;> simp [decode, decodeSel, h]

theorem decode_pin_eq_ok_iff {w : PinWord} {i : Instr} :
    decode (.pin w) = .ok i ↔ ∃ r ∈ pinRows, w &&& r.mask = r.pattern ∧ r.instr = i := by
  rw [← findRow_eq_some_iff pinRows_pairwise_clash]
  cases h : findRow pinRows w <;> simp [decode, decodePin, h]

theorem exists_decode_pin_error_iff {w : PinWord} :
    (∃ r, decode (.pin w) = .error r) ↔ ∀ r ∈ pinRows, w &&& r.mask ≠ r.pattern := by
  rw [← findRow_eq_none_iff]
  cases h : findRow pinRows w <;> simp [decode, decodePin, h]

/-- R92: the encoding of each micro-operation matches its row. -/
theorem encode_of_mem_selRows : ∀ r ∈ selRows, ∃ w : SelWord, encode r.instr = .seq w ∧ w &&& r.mask = r.pattern := by
  simp [selRows, encode]

/-! ### The micro-operation by phase -/

theorem microOp_of_pad {s : State} (hp : s.phase = .pad) : microOp s = some (padInstr s.pstage) := by
  rw [microOp_eq, hp, selectedInstr]

theorem microOp_of_sched {s : State} (hp : s.phase = .sched) :
    microOp s = some (schedInstr (decide (16 ≤ s.t.val))) := by
  rw [microOp_eq, hp, selectedInstr]

theorem microOp_of_binit {s : State} (hp : s.phase = .binit) : microOp s = some .binit := by
  rw [microOp_eq, hp, selectedInstr]

theorem microOp_of_round {s : State} (hp : s.phase = .round) : microOp s = some (roundInstr (stage s.t)) := by
  rw [microOp_eq, hp, selectedInstr]

theorem microOp_of_fold {s : State} (hp : s.phase = .fold) : microOp s = some .fold := by
  rw [microOp_eq, hp, selectedInstr]

/-- R90: the rounds of stage `n` are `20n .. 20n+19`. -/
theorem stage_eq_iff {t : Fin 80} {n : Fin 4} : stage t = n ↔ 20 * n.val ≤ t.val ∧ t.val ≤ 20 * n.val + 19 := by
  rw [stage, Fin.ext_iff]
  show t.val / 20 = n.val ↔ _
  omega

/-! ### The statements -/

/-- Settles O6: `decode_encode`, its converse for the command words, and the rows of the selector table. -/
theorem decodeOfEncode : Obligations.DecodeOfEncode :=
  ⟨decode_encode, fun _ _ => decode_cmd_eq_ok_iff.1, encode_of_mem_selRows⟩

/-- Settles O4: the micro-operation by phase, at the boundaries of the table. -/
theorem selectorSelectsMicroOp : Obligations.SelectorSelectsMicroOp := by
  intro s
  have hround : s.phase = .round → ∀ n : Fin 4, 20 * n.val ≤ s.t.val → s.t.val ≤ 20 * n.val + 19 →
      microOp s = some (roundInstr n) := fun hp n hlo hhi => by
    rw [microOp_of_round hp, stage_eq_iff.2 ⟨hlo, hhi⟩]
  refine ⟨?mark, ?zero, ?len, ?wload, ?wexp, microOp_of_binit, ?rnd0, ?rnd1, ?rnd2, ?rnd3, microOp_of_fold, ?waiting⟩
  case mark => intro hp hst; rw [microOp_of_pad hp, hst, padInstr]
  case zero => intro hp hst; rw [microOp_of_pad hp, hst, padInstr]
  case len => intro hp hst; rw [microOp_of_pad hp, hst, padInstr]
  case wload => intro hp ht; simp [microOp_of_sched hp, schedInstr, Nat.lt_succ_of_le ht]
  case wexp => intro hp ht; simp [microOp_of_sched hp, schedInstr, ht]
  case rnd0 => intro hp ht; exact hround hp 0 (Nat.zero_le _) ht
  case rnd1 => intro hp hlo hhi; exact hround hp 1 hlo hhi
  case rnd2 => intro hp hlo hhi; exact hround hp 2 hlo hhi
  case rnd3 => intro hp hlo; exact hround hp 3 hlo (Nat.le_of_lt_succ s.t.isLt)
  case waiting =>
    intro hp
    apply microOp_of_ready
    rcases hp with hp | hp | hp | hp <;> simp [cmdReady, Phase.cmdReady, hp]

/-- Settles O14: the reserved words are those the decoder rejects, and their transfer is `execIllegalWord`. -/
theorem illegalWordFaults : Obligations.IllegalWordFaults := by
  refine ⟨fun w => ?_, reservedWords_count, fun w => exists_decode_cmd_error_iff_not_wf, ?_⟩
  · rw [exists_decode_cmd_error_iff_not_wf, cmdWordWF_eq_false_iff]
  · rintro w s ⟨r, hr⟩ hp
    rw [transfer_of_error hr]
    exact acceptCommand_of_accepting hp

/-- Settles O1: the decoder computes each of the thirteen words. -/
theorem specWordsDecode : Obligations.SpecWordsDecode := by
  unfold Obligations.SpecWordsDecode
  decide

/-- Settles O2: the encodings of INIT, DATA and FINAL are the words that match their rows. -/
theorem commandOpcodeMap : Obligations.CommandOpcodeMap := by
  intro w
  have hmask : w &&& 0x3FF#10 = w := BitVec.and_allOnes
  simp only [hmask, ← cmdOp_eq_one_iff, ne_eq]
  refine ⟨decode_cmd_eq_init_iff, fun b => ?_, decode_cmd_eq_final_iff, exists_decode_cmd_error_iff⟩
  rw [decode_cmd_eq_data_iff, eq_comm (a := b), cmdOperand]

/-- Settles O3: no selector matches two rows, so it decodes to the row it matches. -/
theorem selectorRows : Obligations.SelectorRows := by
  intro w
  simp [decode_seq_eq_ok_iff, selRows]

/-- Settles O5: the two rows of the pin levels, which clash in the bit of `rst`. -/
theorem pinEventSelection : Obligations.PinEventSelection := by
  refine ⟨fun w => ⟨?take, ?reset, ?nothing⟩, fun s => ⟨pinEvent_eq_reset_iff s, ?takeLevels, ?noLevels⟩⟩
  case take => simp [decode_pin_eq_ok_iff, pinRows]
  case reset => simp [decode_pin_eq_ok_iff, pinRows]
  case nothing =>
    rw [exists_decode_pin_error_iff]
    revert w
    decide
  case takeLevels => simp [outValid]
  case noLevels =>
    rw [pinEvent_eq]
    cases s.pins.rst <;> simp [outValid]

end Sys2Proof
end

section
/-! SUPPORT. Every way `phase` changes (R93), and where the model stops (log 8). -/
namespace Sys2Proof.Machine

open Sys2Proof.Safety

/-! ### The rows of the transition table -/

/-- R93: the rows of the host's instructions, with the phase each enters. -/
inductive HostRow (s : State) : Instr → Phase → Prop
  | init (hp : Accepting s) : HostRow s .init .absorb
  | data {b : Byte} (hp : s.phase = .absorb) (hf : s.fill.val + 1 = 64) : HostRow s (.data b) .sched
  | final (hp : s.phase = .absorb) : HostRow s .final .pad
  | outOfSequence {i : Instr} (hi : Sequenced i = true) (hp : s.phase = .idle ∨ s.phase = .out) : HostRow s i .fault
  | take (hp : s.phase = .out) (ho : s.oidx.val = 19) : HostRow s .take .idle
  | reset : HostRow s .reset .idle

/-- R93: the rows of the engine's micro-operations, with the phase each enters. -/
inductive EngineRow (s : State) : Phase → Prop
  | pad (hp : s.phase = .pad) (hf : s.fill.val + 1 = 64) : EngineRow s .sched
  | schedule (hp : s.phase = .sched) (ht : s.t.val = 79) : EngineRow s .binit
  | binit (hp : s.phase = .binit) : EngineRow s .round
  | round (hp : s.phase = .round) (ht : s.t.val = 79) : EngineRow s .fold
  | fold (hp : s.phase = .fold) : EngineRow s s.ret.phase

/-- R92: the micro-operations are the instructions of the format `SEQ`. -/
def IsMicroOp (i : Instr) : Prop := ∃ w, encode i = .seq w

theorem isMicroOp_padInstr (st : PStage) : IsMicroOp (padInstr st) := by
  cases st <;> exact ⟨_, rfl⟩

theorem isMicroOp_schedInstr (x : Bool) : IsMicroOp (schedInstr x) := by
  cases x <;> exact ⟨_, rfl⟩

theorem isMicroOp_roundInstr (n : Fin 4) : IsMicroOp (roundInstr n) := by
  match n with
  | 0 | 1 | 2 | 3 => exact ⟨_, rfl⟩

theorem isMicroOp_of_microOp {s : State} {i : Instr} (h : microOp s = some i) : IsMicroOp i := by
  obtain ⟨r, hr, -, rfl⟩ := decode_seq_eq_ok_iff.1 (decode?_eq_some_iff.1 h)
  obtain ⟨w, hw, -⟩ := encode_of_mem_selRows r hr
  exact ⟨w, hw⟩

theorem sequenced_iff {i : Instr} : Sequenced i = true ↔ (∃ b, i = .data b) ∨ i = .final := by
  cases i <;> simp [Sequenced]

theorem HostRow.not_isMicroOp {i : Instr} {s : State} {p : Phase} (h : HostRow s i p) : ¬ IsMicroOp i := by
  rintro ⟨w, hw⟩
  cases h with
  | outOfSequence hi => rcases sequenced_iff.1 hi with ⟨b, rfl⟩ | rfl <;> cases hw
  | _ => cases hw

/-- Filling the chunk changes the phase where it ends the chunk. -/
theorem pushByte_phase {v : Byte} {r : Ret} {s t : State} (h : pushByte v r s = .next t) (hne : t.phase ≠ s.phase) :
    t.phase = .sched ∧ s.fill.val + 1 = 64 := by
  obtain ⟨hlt, ⟨-, rfl⟩ | ⟨hlast, rfl⟩⟩ := pushByte_cases h
  · exact absurd rfl hne
  · exact ⟨rfl, hlast⟩

/-- Advancing `t` changes the phase at `t = 79`. -/
theorem advanceT_phase_of_ne {last : Phase} {s : State} (hne : (advanceT last s).phase ≠ s.phase) :
    (advanceT last s).phase = last ∧ s.t.val = 79 := by
  rcases advanceT_cases last s with ⟨_, ht⟩ | ⟨hlast, ht⟩
  · exact absurd (by rw [ht]) hne
  · exact ⟨by rw [ht], hlast⟩

/-- R93: an instruction changes the phase by a row of the transition table. -/
theorem Effect.phaseRow {i : Instr} {s t : State} (h : Effect s i t) (hne : t.phase ≠ s.phase) :
    HostRow s i t.phase ∨ IsMicroOp i ∧ EngineRow s t.phase := by
  cases h with
  | waits => exact absurd rfl hne
  | init hp => exact .inl (.init hp)
  | data hp ht =>
    obtain ⟨hq, hf⟩ := pushByte_phase ht hne
    exact .inl (hq ▸ .data hp hf)
  | final hp => exact .inl (.final hp)
  | outOfSequence hi hp hc => exact .inl (.outOfSequence hi hp)
  | take hp =>
    rcases advanceOidx_cases (deliver s) with ⟨_, ht⟩ | ⟨hlast, ht⟩
    · exact absurd (by rw [ht]; rfl) hne
    · exact .inl (ht ▸ .take hp hlast)
  | reset => exact .inl .reset
  | pad hp hfill ht =>
    obtain ⟨hq, hf⟩ := pushByte_phase ht hne
    exact .inr ⟨isMicroOp_padInstr _, hq ▸ .pad hp hf⟩
  | schedule hp =>
    obtain ⟨hq, ht⟩ := advanceT_phase_of_ne hne
    exact .inr ⟨isMicroOp_schedInstr _, hq ▸ .schedule hp ht⟩
  | binit hp => exact .inr ⟨⟨_, rfl⟩, .binit hp⟩
  | round hp =>
    obtain ⟨hq, ht⟩ := advanceT_phase_of_ne (s := s.setVars _) hne
    exact .inr ⟨isMicroOp_roundInstr _, hq ▸ .round hp ht⟩
  | fold hp => exact .inr ⟨⟨_, rfl⟩, .fold hp⟩

/-! ### The kinds of edge -/

theorem EngineRow.of_passInput {acted : Bool} {s : State} {p : Phase} (h : EngineRow (passInput acted s) p) :
    EngineRow s p := by
  cases h with
  | pad hp hf => exact .pad hp hf
  | schedule hp ht => exact .schedule hp ht
  | binit hp => exact .binit hp
  | round hp ht => exact .round hp ht
  | fold hp => exact .fold (s := s) hp

theorem engineRow_of_microOp {i : Instr} {s t : State} (hi : microOp s = some i) (h : exec i s = .next t)
    (hne : t.phase ≠ s.phase) : EngineRow s t.phase := by
  rcases (effect_of_exec h).phaseRow hne with hrow | ⟨-, hrow⟩
  · exact absurd (isMicroOp_of_microOp hi) hrow.not_isMicroOp
  · exact hrow

/-- R191: a take changes the phase at the last byte. -/
theorem phase_of_take {s t : State} (h : exec .take s = .next t) :
    t.phase = s.phase ∨ s.phase = .out ∧ t.phase = .idle ∧ s.oidx.val = 19 := by
  refine or_iff_not_imp_left.2 fun hne => ?_
  have hrow := (effect_of_exec h).phaseRow hne
  generalize t.phase = q at hrow ⊢
  rcases hrow with hrow | ⟨⟨w, hw⟩, -⟩
  · cases hrow with
    | take hp ho => exact ⟨hp, rfl, ho⟩
    | outOfSequence hi => cases hi
  · cases hw

/-- R133, R134: an illegal word changes the phase where it raises its fault. -/
theorem phase_of_execIllegalWord {s t : State} (h : execIllegalWord s = .next t) (hne : t.phase ≠ s.phase) :
    Accepting s ∧ t.phase = .fault := by
  rcases acceptCommand_cases (fun s => .next (raiseFault illegalCmd s)) s with ⟨hw, -⟩ | ⟨he, ha⟩
  · cases hw.symm.trans h
    exact absurd rfl hne
  · cases he.symm.trans h
    exact ⟨ha, rfl⟩

/-- R93, R209: the rows of the command words, legal or not. -/
inductive CommandRow (s : State) (w : CmdWord) : Phase → Prop
  | init (hp : Accepting s) (hw : w = 0x000#10) : CommandRow s w .absorb
  | data (hp : s.phase = .absorb) (hw : cmdOp w = 1#2) (hf : s.fill.val + 1 = 64) : CommandRow s w .sched
  | final (hp : s.phase = .absorb) (hw : w = 0x200#10) : CommandRow s w .pad
  | illegal (hp : s.phase = .absorb) (hw : cmdWordWF w = false) : CommandRow s w .fault
  | notInit (hp : s.phase = .idle ∨ s.phase = .out) (hw : w ≠ 0x000#10) : CommandRow s w .fault

theorem HostRow.commandRow {w : CmdWord} {i : Instr} {s : State} {p : Phase} (hw : decode (.cmd w) = .ok i)
    (h : HostRow s i p) : CommandRow s w p := by
  cases h with
  | init hp => exact .init hp (decode_cmd_eq_init_iff.1 hw)
  | data hp hf => exact .data hp (decode_cmd_eq_data_iff.1 hw).1 hf
  | final hp => exact .final hp (decode_cmd_eq_final_iff.1 hw)
  | outOfSequence hi hp =>
    refine .notInit hp fun h0 => ?_
    rw [decode_cmd_eq_init_iff.2 h0] at hw
    cases hw
    cases hi
  | take => cases decode_cmd_eq_ok_iff.1 hw
  | reset => cases decode_cmd_eq_ok_iff.1 hw

theorem commandRow_of_transfer {w : CmdWord} {s t : State} (h : transfer w s = .next t) (hne : t.phase ≠ s.phase) :
    CommandRow s w t.phase := by
  cases hw : decode (.cmd w) with
  | ok i =>
    rw [transfer_of_ok hw] at h
    rcases (effect_of_exec h).phaseRow hne with hrow | ⟨⟨w', hw'⟩, -⟩
    · exact hrow.commandRow hw
    · cases hw'.symm.trans (decode_cmd_eq_ok_iff.1 hw)
  | error r =>
    rw [transfer_of_error hw] at h
    obtain ⟨hp, hq⟩ := phase_of_execIllegalWord h hne
    have hw0 : w ≠ 0x000#10 := (exists_decode_cmd_error_iff.1 ⟨r, hw⟩).1
    rw [hq]
    rcases hp with hp | hp | hp
    · exact .notInit (.inl hp) hw0
    · exact .illegal hp (exists_decode_cmd_error_iff_not_wf.1 ⟨r, hw⟩)
    · exact .notInit (.inr hp) hw0

theorem CommandRow.of_passInput {acted : Bool} {w : CmdWord} {s : State} {p : Phase}
    (h : CommandRow (passInput acted s) w p) : CommandRow s w p := by
  cases h with
  | init hp hw => exact .init hp hw
  | data hp hw hf => exact .data hp hw hf
  | final hp hw => exact .final hp hw
  | illegal hp hw => exact .illegal hp hw
  | notInit hp hw => exact .notInit hp hw

/-- R210: a command that meets the state a take left has a row of OUT. -/
theorem CommandRow.of_taken {w : CmdWord} {u s : State} {p : Phase} (h : CommandRow u w p)
    (hu : u.phase = .idle ∨ u.phase = .out) (hs : s.phase = .out) : CommandRow s w p := by
  have hu' : u.phase ≠ .absorb := by rcases hu with hu | hu <;> simp [hu]
  cases h with
  | init hp hw => exact .init (.inr (.inr hs)) hw
  | data hp => exact absurd hp hu'
  | final hp => exact absurd hp hu'
  | illegal hp => exact absurd hp hu'
  | notInit hp hw => exact .notInit (.inr hs) hw

/-- R93, R210: on the host's turn the phase changes by the last take or by a command, which may meet the state a take
left. -/
theorem phase_of_hostEdge {s t : State} (h : hostEdge s = .next t) (hne : t.phase ≠ s.phase) :
    (s.phase = .out ∧ t.phase = .idle ∧ s.pins.outReady = true ∧ s.oidx.val = 19) ∨
    (s.pins.cmdValid = true ∧ CommandRow s s.pins.cmd t.phase) := by
  rcases hostEdge_cases h with ⟨-, -, rfl⟩ | ⟨ht, -, hx⟩ | ⟨-, hv, hx⟩ | ⟨ht, hv, u, hu, hx⟩
  · exact absurd rfl hne
  · obtain ⟨-, -, hready⟩ := (pinEvent_eq_take_iff s).1 ht
    obtain ⟨hp, hq, ho⟩ := (phase_of_take hx).resolve_left hne
    exact .inl ⟨hp, hq, hready, ho⟩
  · exact .inr ⟨hv, (commandRow_of_transfer hx hne).of_passInput⟩
  · obtain ⟨-, hout, hready⟩ := (pinEvent_eq_take_iff s).1 ht
    have hp : s.phase = .out := by simpa [outValid] using hout
    rcases phase_of_take hu with hup | ⟨-, hup, ho⟩
    · have hup' : u.phase = .out := hup.trans hp
      exact .inr ⟨hv, (commandRow_of_transfer hx (by rwa [hup])).of_taken (.inr hup') hp⟩
    · by_cases hq : t.phase = u.phase
      · exact .inl ⟨hp, hq.trans hup, hready, ho⟩
      · exact .inr ⟨hv, (commandRow_of_transfer hx hq).of_taken (.inl hup) hp⟩

/-! ### Where the model stops -/

/-- R92, R93: each micro-operation stops where it is not selected, since its guard says that it is. -/
theorem exec_of_not_selected {i : Instr} {s : State} (hi : IsMicroOp i) (hm : microOp s ≠ some i) :
    exec i s = .fault .notSelected := by
  have hpad : ∀ st, s.phase = .pad ∧ s.pstage = st → microOp s = some (padInstr st) := fun st ⟨hp, hst⟩ => by
    rw [microOp_of_pad hp, hst]
  have hround : ∀ n, s.phase = .round ∧ stage s.t = n → microOp s = some (roundInstr n) := fun n ⟨hp, hn⟩ => by
    rw [microOp_of_round hp, hn]
  cases i with
  | init | data | final | take | reset => obtain ⟨w, hw⟩ := hi; cases hw
  | padmark => exact if_neg fun h => hm (hpad .mark h)
  | padzero => exact if_neg fun h => hm (hpad .zero h)
  | padlen => exact if_neg fun h => hm (hpad .len h)
  | wload => exact dif_neg fun h => hm (by simp [microOp_of_sched h.1, schedInstr, h.2])
  | wexp => exact if_neg fun h => hm (by simp [microOp_of_sched h.1, schedInstr, h.2])
  | binit => exact if_neg fun h => hm (microOp_of_binit h)
  | rnd0 => exact if_neg fun h => hm (hround 0 h)
  | rnd1 => exact if_neg fun h => hm (hround 1 h)
  | rnd2 => exact if_neg fun h => hm (hround 2 h)
  | rnd3 => exact if_neg fun h => hm (hround 3 h)
  | fold => exact if_neg fun h => hm (microOp_of_fold h)

/-- R59: DATA has no byte 64 of the chunk to write. -/
theorem exec_data_of_full {s : State} (hp : s.phase = .absorb) (hf : s.fill.val = 64) (b : Byte) :
    exec (.data b) s = .fault .chunkIndex := by
  rw [exec, execData, acceptCommand_of_accepting (.inr (.inl hp)), if_pos hp]
  exact pushByte_of_full hf

/-- R59: the padder has no byte 64 of the chunk to write. -/
theorem exec_padInstr_of_full {s : State} (hp : s.phase = .pad) (hf : s.fill.val = 64) :
    exec (padInstr s.pstage) s = .fault .chunkIndex := by
  cases hst : s.pstage with
  | mark => exact (exec_padmark hp hst).trans (pushByte_of_full hf)
  | zero => exact (exec_padzero hp hst).trans (pushByte_of_full hf)
  | len => exact exec_padlen_of_full hp hst hf

/-! ### The statements -/

/-- Settles O39: reset, a row of the engine, or a row of the host's turn. -/
theorem phaseTransitions : Obligations.PhaseTransitions := by
  intro s t h hne
  rcases edge_cases h with ⟨hr, rfl⟩ | ⟨hr, i, hi, hx⟩ | ⟨hr, -, hh⟩
  · exact .inl ⟨(pinEvent_eq_reset_iff s).1 hr, rfl⟩
  all_goals
    have hrst : s.pins.rst = false := by simpa using hr
    refine .inr ⟨hrst, ?_⟩
  · have hrow : EngineRow s t.phase :=
      (engineRow_of_microOp (s := passInput false s) hi hx hne).of_passInput
    generalize t.phase = q at hrow ⊢
    cases hrow with
    | pad hp hf => simp [hp, hf]
    | schedule hp ht => simp [hp, ht]
    | binit hp => simp [hp]
    | round hp ht => simp [hp, ht]
    | fold hp => simp [hp]
  · rcases phase_of_hostEdge hh hne with ⟨hp, hq, hready, ho⟩ | ⟨hv, hrow⟩
    · simp [hp, hq, hready, ho]
    · generalize t.phase = q at hrow hne ⊢
      cases hrow with
      | init hp hw =>
        rcases hp with hp | hp | hp
        · simp [hp, hv, hw]
        · exact absurd hp.symm hne
        · simp [hp, hv, hw]
      | data hp hw hf => simp [hp, hv, hw, hf]
      | final hp hw => simp [hp, hv, hw]
      | illegal hp hw => simp [hp, hv, hw]
      | notInit hp hw => rcases hp with hp | hp <;> simp [hp, hv, hw]

/-- Settles O54: one lemma for each of the stops. -/
theorem stopsWhereNoStepIsDefined : Obligations.StopsWhereNoStepIsDefined := by
  refine ⟨fun i w s hw => exec_of_not_selected ⟨w, hw⟩, fun b s hp hf => exec_data_of_full hp hf b, ?_,
    fun s => exec_padlen_of_low⟩
  intro i s hp hi hf
  rw [microOp_of_pad hp] at hi
  cases hi
  exact exec_padInstr_of_full hp hf

end Sys2Proof.Machine
end

section
/-! SUPPORT. The layout of the padded message (R85). -/
namespace Sys2Proof.Machine

/-- R85: the marker, the zero bytes and the length field fill the last chunk. -/
theorem zeroCount_add (l : Nat) : l + 1 + zeroCount l + 8 = 64 * chunkCount l := by
  unfold zeroCount chunkCount
  omega

theorem zeroCount_lt (l : Nat) : zeroCount l < 64 := Nat.mod_lt _ (by decide)

theorem be64Bytes_get (x : Length) (j : Fin 8) : (be64Bytes x)[j.val]? = some (byte64 x j) := by
  match j with
  | 0 | 1 | 2 | 3 | 4 | 5 | 6 | 7 => rfl

/-- R85: the message with its marker, then the zero bytes and the length field. -/
theorem pad_eq (m : List Byte) : pad m =
    (m ++ [0x80#8]) ++ (List.replicate (zeroCount m.length) 0x00#8 ++ be64Bytes (messageLength m)) := by
  simp [pad]

theorem pad_get_after_marker (m : List Byte) (k : Nat) : (pad m)[m.length + 1 + k]? =
    (List.replicate (zeroCount m.length) 0x00#8 ++ be64Bytes (messageLength m))[k]? := by
  have hpos : m.length + 1 + k - (m ++ [0x80#8]).length = k := by simp
  rw [pad_eq, List.getElem?_append_right (by simp), hpos]

theorem pad_length (m : List Byte) : (pad m).length = m.length + 1 + zeroCount m.length + 8 := by
  simp [pad, be64Bytes]
  omega

/-- Settles O48: the four parts of `pad(m)` by position, and the congruence that `zeroCount` solves. -/
theorem paddedMessageLayout : Obligations.PaddedMessageLayout := by
  intro m
  have hlen := pad_length m
  have hchunks := zeroCount_add m.length
  have hz := zeroCount_lt m.length
  refine ⟨by omega, hlen, by omega, by omega, by omega, by omega, fun z hlt => by omega, ?message, ?marker, ?zeros,
    ?lengthField⟩
  case message =>
    intro i hi
    simp [pad, List.append_assoc, List.getElem?_append_left hi]
  case marker => simp [pad, List.append_assoc]
  case zeros =>
    intro z hlt
    rw [pad_get_after_marker, List.getElem?_append_left (by simpa using hlt), List.getElem?_replicate, if_pos hlt]
  case lengthField =>
    intro j
    rw [Nat.add_assoc, pad_get_after_marker, List.getElem?_append_right (by simp), List.length_replicate,
      Nat.add_sub_cancel_left]
    exact be64Bytes_get _ j

end Sys2Proof.Machine
end

section
/-! SUPPORT. The arithmetic of the digest function: rotations (R10, R122), the big-endian forms (R11, R123), the
boolean functions (R115), the schedule (R113) and the digest's layout (R119). -/
namespace Sys2Proof.Machine

/-! ### Rotations -/

/-- R10: bit `i` of a rotated word is the bit `n` places below it, around the end of the word. -/
theorem rotl_getLsbD (x : Word) (n i : Nat) (hi : i < 32) :
    (rotl x n).getLsbD i = x.getLsbD ((i + (32 - n % 32)) % 32) := by
  have hn : n % 32 < 32 := Nat.mod_lt n (by decide)
  rw [rotl, BitVec.getLsbD_rotateLeft]
  by_cases hlt : i < n % 32
  · have hpos : (i + (32 - n % 32)) % 32 = 32 - n % 32 + i := by omega
    rw [decide_eq_true hlt, cond_true, hpos]
  · have hpos : (i + (32 - n % 32)) % 32 = i - n % 32 := by omega
    rw [decide_eq_false hlt, cond_false, decide_eq_true hi, Bool.true_and, hpos]

theorem rotl_zero (x : Word) : rotl x 0 = x := by
  refine BitVec.eq_of_getLsbD_eq fun i hi => ?_
  rw [rotl_getLsbD x 0 i hi, Nat.zero_mod, Nat.sub_zero, Nat.add_mod_right, Nat.mod_eq_of_lt hi]

theorem rotl_rotl (x : Word) (a b : Nat) : rotl (rotl x a) b = rotl x ((a + b) % 32) := by
  refine BitVec.eq_of_getLsbD_eq fun i hi => ?_
  rw [rotl_getLsbD _ b i hi, rotl_getLsbD x a _ (Nat.mod_lt _ (by decide)), rotl_getLsbD x _ i hi]
  congr 1
  omega

theorem rotl_getLsbD_add (x : Word) {n i : Nat} (hi : i < 32) :
    (rotl x n).getLsbD ((i + n) % 32) = x.getLsbD i := by
  rw [rotl_getLsbD x n _ (Nat.mod_lt _ (by decide))]
  congr 1
  omega

theorem rotl_sub_eq_rotateRight (x : Word) {n : Nat} (h0 : 0 < n) (hn : n < 32) :
    rotl x (32 - n) = x.rotateRight n := by
  refine BitVec.eq_of_getLsbD_eq fun i hi => ?_
  have hback : 32 - (32 - n) % 32 = n := by omega
  rw [rotl_getLsbD x _ i hi, BitVec.getLsbD_rotateRight, hback, Nat.mod_eq_of_lt hn]
  by_cases hlt : i < 32 - n
  · rw [decide_eq_true hlt, cond_true, Nat.mod_eq_of_lt (by omega), Nat.add_comm]
  · have hpos : (i + n) % 32 = i - (32 - n) := by omega
    rw [decide_eq_false hlt, cond_false, decide_eq_true hi, Bool.true_and, hpos]

/-- R122: rotation moves the bits of both operands of a bitwise operation together. -/
theorem rotl_xor (x y : Word) (n : Nat) : rotl (x ^^^ y) n = rotl x n ^^^ rotl y n :=
  BitVec.eq_of_getLsbD_eq fun i hi => by simp only [BitVec.getLsbD_xor, rotl_getLsbD _ n i hi]

theorem rotl_and (x y : Word) (n : Nat) : rotl (x &&& y) n = rotl x n &&& rotl y n :=
  BitVec.eq_of_getLsbD_eq fun i hi => by simp only [BitVec.getLsbD_and, rotl_getLsbD _ n i hi]

theorem rotl_or (x y : Word) (n : Nat) : rotl (x ||| y) n = rotl x n ||| rotl y n :=
  BitVec.eq_of_getLsbD_eq fun i hi => by simp only [BitVec.getLsbD_or, rotl_getLsbD _ n i hi]

theorem rotl_not (x : Word) (n : Nat) : rotl (~~~x) n = ~~~(rotl x n) := by
  refine BitVec.eq_of_getLsbD_eq fun i hi => ?_
  have hpos : (i + (32 - n % 32)) % 32 < 32 := Nat.mod_lt _ (by decide)
  simp only [BitVec.getLsbD_not, rotl_getLsbD _ n i hi, decide_eq_true hi, decide_eq_true hpos]

/-! ### Bytes of a word -/

theorem be32_byte32 (x : Word) : be32 (byte32 x 0) (byte32 x 1) (byte32 x 2) (byte32 x 3) = x := by
  have h01 : byte32 x 0 ++ byte32 x 1 = x.extractLsb' 16 16 := BitVec.extractLsb'_append_extractLsb'_eq_extractLsb' rfl
  have h012 : x.extractLsb' 16 16 ++ byte32 x 2 = x.extractLsb' 8 24 :=
    BitVec.extractLsb'_append_extractLsb'_eq_extractLsb' rfl
  have h0123 : x.extractLsb' 8 24 ++ byte32 x 3 = x.extractLsb' 0 32 :=
    BitVec.extractLsb'_append_extractLsb'_eq_extractLsb' rfl
  rw [be32, h01, h012, h0123]
  exact BitVec.extractLsb'_eq_self

theorem be32Bytes_be32 (b0 b1 b2 b3 : Byte) : be32Bytes (be32 b0 b1 b2 b3) = [b0, b1, b2, b3] := by
  have h0 : byte32 (be32 b0 b1 b2 b3) 0 = b0 :=
    calc _ = (b0 ++ b1 ++ b2).extractLsb' 16 8 := BitVec.extractLsb'_append_eq_of_le (by decide)
      _ = (b0 ++ b1).extractLsb' 8 8 := BitVec.extractLsb'_append_eq_of_le (by decide)
      _ = b0 := BitVec.extractLsb'_append_eq_left
  have h1 : byte32 (be32 b0 b1 b2 b3) 1 = b1 :=
    calc _ = (b0 ++ b1 ++ b2).extractLsb' 8 8 := BitVec.extractLsb'_append_eq_of_le (by decide)
      _ = (b0 ++ b1).extractLsb' 0 8 := BitVec.extractLsb'_append_eq_of_le (by decide)
      _ = b1 := BitVec.extractLsb'_append_eq_right
  have h2 : byte32 (be32 b0 b1 b2 b3) 2 = b2 :=
    calc _ = (b0 ++ b1 ++ b2).extractLsb' 0 8 := BitVec.extractLsb'_append_eq_of_le (by decide)
      _ = b2 := BitVec.extractLsb'_append_eq_right
  have h3 : byte32 (be32 b0 b1 b2 b3) 3 = b3 := BitVec.extractLsb'_append_eq_right
  rw [be32Bytes, h0, h1, h2, h3]

/-! ### The boolean functions, bit by bit -/

theorem fSel_getLsbD (b c d : Word) {n : Nat} (hn : n < 32) :
    (fSel b c d).getLsbD n = if b.getLsbD n then c.getLsbD n else d.getLsbD n := by
  simp only [fSel, BitVec.getLsbD_or, BitVec.getLsbD_and, BitVec.getLsbD_not, decide_eq_true hn, Bool.true_and]
  cases b.getLsbD n <;> simp

theorem fXor_getLsbD (b c d : Word) (n : Nat) :
    (fXor b c d).getLsbD n = ((b.getLsbD n ^^ c.getLsbD n) ^^ d.getLsbD n) := by
  simp only [fXor, BitVec.getLsbD_xor]

theorem fMaj_getLsbD (b c d : Word) (n : Nat) : (fMaj b c d).getLsbD n =
    ((b.getLsbD n && c.getLsbD n) || (b.getLsbD n && d.getLsbD n) || (c.getLsbD n && d.getLsbD n)) := by
  simp only [fMaj, BitVec.getLsbD_or, BitVec.getLsbD_and]

/-! ### The digest's bytes -/

/-- R88, R190: the bytes of the working registers in the order they are offered. -/
def digestBytes (h : Vector Word 5) : List Byte := List.ofFn (digestByte h)

@[simp] theorem digestBytes_length (h : Vector Word 5) : (digestBytes h).length = 20 := List.length_ofFn

theorem digestBytes_get (h : Vector Word 5) (k : Fin 20) : (digestBytes h)[k.val]? = some (digestByte h k) := by
  rw [digestBytes, List.getElem?_ofFn, dif_pos k.isLt]

/-- R88: the digest is the bytes that are offered when `h` is the final `H`. -/
theorem digest_eq (m : List Byte) : digest m = digestBytes (finalHash m) := rfl

/-- R88: byte `4i + j` is byte `j` of `h[i]`. -/
theorem digestByte_add (h : Vector Word 5) (i : Fin 5) (j : Fin 4) :
    digestByte h ⟨4 * i.val + j.val, by omega⟩ = byte32 h[i] j := by
  have hi : (4 * i.val + j.val) / 4 = i.val := by omega
  have hj : (4 * i.val + j.val) % 4 = j.val := by omega
  simp only [digestByte, hi, hj, Fin.getElem_fin]

/-! ### The statements -/

/-- Settles O7: each law by the bit that `rotl_getLsbD` reads. -/
theorem rotationLaws : Obligations.RotationLaws :=
  ⟨rotl_zero, rotl_rotl, fun x _ _ _ hi => rotl_getLsbD_add x hi, fun x _ => rotl_sub_eq_rotateRight x,
    fun x y n => ⟨rotl_xor x y n, rotl_and x y n, rotl_or x y n, rotl_not x n⟩⟩

/-- Settles O8: the slices of a word put together, and the slices of a word so made. -/
theorem bigEndianRoundTrip : Obligations.BigEndianRoundTrip := ⟨be32_byte32, be32Bytes_be32⟩

/-- Settles O23: the recurrence of the schedule, below 16 and from 16 on. -/
theorem scheduleEquations : Obligations.ScheduleEquations := by
  intro chunk i
  refine ⟨fun h => ?_, fun h => ?_⟩
  · rw [schedule_get, scheduleWord, dif_pos h, chunkWord]
  · rw [schedule_get, scheduleWord, dif_neg (Nat.not_lt.2 h), expandWord]

/-- Settles O49: the digest is `digestBytes` of the final `h`. -/
theorem digestLayout : Obligations.DigestLayout := fun m =>
  ⟨digestBytes_length _, fun i j =>
    (digestBytes_get (finalHash m) ⟨4 * i.val + j.val, by omega⟩).trans (congrArg some (digestByte_add _ i j))⟩

/-- Settles O9: each function bit by bit, and the table of the stages by definition. -/
theorem booleanFunctions : Obligations.BooleanFunctions :=
  ⟨fun b c d n hn => ⟨fSel_getLsbD b c d hn, fXor_getLsbD b c d n, fMaj_getLsbD b c d n⟩, rfl, rfl, rfl, rfl⟩

end Sys2Proof.Machine
end

section
/-! SUPPORT. Runs of the machine, and a compression step by step (R117, R162, R176, R177). -/
namespace Sys2Proof.Machine

open Sys2Proof.Safety

/-! ### Runs -/

/-- `k` steps lead from `s` to `t`. -/
def Runs (k : Nat) (s t : State) : Prop := Host.Core.run core k s = .next t

theorem runs_zero (s : State) : Runs 0 s s := rfl

/-- A run of any machine begins with its first step. -/
theorem run_succ_eq_next_iff (M : Host.Core) (k : Nat) (s t : M.State) :
    M.run (k + 1) s = .next t ↔ ∃ u, M.step s = .next u ∧ M.run k u = .next t := by
  rw [Host.Core.run]
  cases M.step s <;> simp

theorem runs_succ_iff {k : Nat} {s t : State} : Runs (k + 1) s t ↔ ∃ u, step s = .next u ∧ Runs k u t :=
  run_succ_eq_next_iff core k s t

theorem runs_one {s t : State} (h : step s = .next t) : Runs 1 s t := runs_succ_iff.2 ⟨t, h, runs_zero t⟩

theorem runs_add {k l : Nat} {s u t : State} (h : Runs k s u) (h' : Runs l u t) : Runs (k + l) s t := by
  induction k generalizing s with
  | zero =>
    cases h
    rwa [Nat.zero_add]
  | succ k ih =>
    obtain ⟨v, hv, hr⟩ := runs_succ_iff.1 h
    rw [Nat.succ_add]
    exact runs_succ_iff.2 ⟨v, hv, ih hr⟩

/-! ### A host that does not reset -/

theorem rst_of_noReset {s : State} (h : NoReset s) : s.pins.rst = false := by
  cases hi : s.inputs with
  | nil => simp [State.pins, hi, Pins.quiet]
  | cons d ds => simpa [State.pins, hi] using h d (by simp [hi])

theorem noReset_of_inputsAfter {acted : Bool} {s u : State} (h : NoReset s)
    (hu : u.inputs = inputsAfter acted s.inputs) : NoReset u := by
  intro d hd
  rcases inputsAfter_cases acted s.inputs with he | he
  · exact h d (he ▸ hu ▸ hd)
  · exact h d (List.mem_of_mem_tail (he ▸ hu ▸ hd))

/-! ### What a compression leaves -/

/-- What filling the chunk and compressing it leave as they are. -/
structure Setting where
  ml : Length
  pstage : PStage
  err : Bool
  errCode : BitVec 2
  delivered : List Byte

/-- The setting of a state. -/
def State.setting (s : State) : Setting := ⟨s.ml, s.pstage, s.err, s.errCode, s.delivered⟩

/-- What a compression starts from, and its steps before FOLD leave as it is. -/
structure CompressionInput where
  h : Vector Word 5
  chunk : Vector Byte 64
  ret : Ret
  setting : Setting

/-- The compression input of a state. -/
def State.compressionInput (s : State) : CompressionInput := ⟨s.h, s.chunk, s.ret, s.setting⟩

/-! ### The steps of a compression -/

/-- R117, R162, R176: how many steps of a compression have been made: 80 of the schedule, BINIT, 80 rounds, and then
FOLD is due. -/
def compressionSteps (s : State) : Nat :=
  match s.phase with
  | .binit => 80
  | .round => 81 + s.t.val
  | .fold => 161
  | .sched | .idle | .absorb | .pad | .out | .fault => s.t.val

theorem compressionSteps_of_sched {s : State} (hp : s.phase = .sched) : compressionSteps s = s.t.val := by
  rw [compressionSteps, hp]

theorem compressionSteps_of_binit {s : State} (hp : s.phase = .binit) : compressionSteps s = 80 := by
  rw [compressionSteps, hp]

theorem compressionSteps_of_round {s : State} (hp : s.phase = .round) : compressionSteps s = 81 + s.t.val := by
  rw [compressionSteps, hp]

theorem compressionSteps_of_fold {s : State} (hp : s.phase = .fold) : compressionSteps s = 161 := by
  rw [compressionSteps, hp]

theorem compressing_cases {p : Phase} (h : Compressing p = true) :
    p = .sched ∨ p = .binit ∨ p = .round ∨ p = .fold := by
  cases p <;> simp [Compressing] at h ⊢

theorem busy_of_compressing {s : State} (h : Compressing s.phase = true) : busy s = true :=
  (busy_iff s).2 (.inr (compressing_cases h))

/-- R162, R176: FOLD is due when all the other steps have been made. -/
theorem phase_of_compressionSteps {s : State} (h : Compressing s.phase = true) (hk : compressionSteps s = 161) :
    s.phase = .fold := by
  have ht := s.t.isLt
  rcases compressing_cases h with hp | hp | hp | hp
  · rw [compressionSteps_of_sched hp] at hk; omega
  · rw [compressionSteps_of_binit hp] at hk; omega
  · rw [compressionSteps_of_round hp] at hk; omega
  · exact hp

/-- R162, R175: advancing `t` is one step, within the phase or to the next. -/
theorem compressionSteps_advanceT {last : Phase} {s : State}
    (hp : s.phase = .sched ∧ last = .binit ∨ s.phase = .round ∧ last = .fold) :
    compressionSteps (advanceT last s) = compressionSteps s + 1 := by
  rcases advanceT_cases last s with ⟨hlt, he⟩ | ⟨h79, he⟩
  all_goals
    rw [he]
    rcases hp with ⟨hp, rfl⟩ | ⟨hp, rfl⟩
    all_goals simp [compressionSteps, hp]
  all_goals omega

/-- `u` is one step of a compression after `s`. -/
structure CompressionStep (s u : State) : Prop where
  compressing : Compressing u.phase = true
  steps : compressionSteps u = compressionSteps s + 1
  input : u.compressionInput = s.compressionInput

theorem compressionStep_schedule {s : State} (hp : s.phase = .sched) : CompressionStep s (scheduleStep s) :=
  ⟨compressing_advanceT (s := { s with w := _ }) (by simp [hp, Compressing]) rfl,
    compressionSteps_advanceT (s := { s with w := _ }) (.inl ⟨hp, rfl⟩), rfl⟩

theorem compressionStep_binit {s : State} (hp : s.phase = .binit) :
    CompressionStep s { s.setVars (varsOf s.h) with t := 0, phase := .round } :=
  ⟨rfl, by rw [compressionSteps_of_binit hp, compressionSteps_of_round rfl]; rfl, rfl⟩

theorem compressionStep_round (f : Word → Word → Word → Word) (k : Word) {s : State} (hp : s.phase = .round) :
    CompressionStep s (roundStep f k s) :=
  ⟨compressing_advanceT (s := s.setVars _) (by simp [hp, Compressing]) rfl,
    compressionSteps_advanceT (s := s.setVars _) (.inr ⟨hp, rfl⟩), rfl⟩

/-- The passing of the input levels is no part of a compression. -/
theorem CompressionStep.of_passInput {s u : State} (h : CompressionStep (passInput false s) u) :
    CompressionStep s u :=
  ⟨h.compressing, h.steps, h.input⟩

/-- R92, R237: before FOLD is due, the engine makes the next step of the compression. -/
theorem exists_compressionStep {s : State} (hc : Compressing s.phase = true) (hk : compressionSteps s < 161)
    (hr : NoReset s) :
    ∃ u, step s = .next u ∧ CompressionStep s u ∧ u.inputs = inputsAfter false s.inputs := by
  have hrst := rst_of_noReset hr
  rcases compressing_cases hc with hp | hp | hp | hp
  · exact ⟨_, (step_of_microOp hrst (microOp_of_sched hp)).trans (exec_schedInstr (s := passInput false s) hp),
      (compressionStep_schedule (by exact hp)).of_passInput, rfl⟩
  · exact ⟨_, (step_of_microOp hrst (microOp_of_binit hp)).trans (exec_binit (s := passInput false s) hp),
      (compressionStep_binit (by exact hp)).of_passInput, rfl⟩
  · exact ⟨_, (step_of_microOp hrst (microOp_of_round hp)).trans (exec_roundInstr (s := passInput false s) hp rfl),
      (compressionStep_round _ _ (by exact hp)).of_passInput, rfl⟩
  · rw [compressionSteps_of_fold hp] at hk
    exact absurd hk (Nat.lt_irrefl _)

/-! ### A whole compression -/

/-- R117: `k` steps of the compression that starts from `s` lead to `u`. -/
structure CompressionRun (k : Nat) (s u : State) : Prop where
  run : Runs k s u
  compressing : Compressing u.phase = true
  steps : compressionSteps u = k
  input : u.compressionInput = s.compressionInput
  data : DataInv u
  noReset : NoReset u
  held : inputsAfter false s.inputs = s.inputs → u.inputs = s.inputs

/-- R162, R176: the first 161 steps of a compression. -/
theorem exists_compressionRun {s : State} (hp : s.phase = .sched) (ht : s.t.val = 0) (hr : NoReset s) {k : Nat}
    (hk : k ≤ 161) : ∃ u, CompressionRun k s u := by
  induction k with
  | zero =>
    have hdata : DataInv s := (dataInv_iff_of_sched hp).2 fun i hi => absurd hi (by omega)
    exact ⟨s, runs_zero s, by simp [hp, Compressing], (compressionSteps_of_sched hp).trans ht, rfl, hdata, hr,
      fun _ => rfl⟩
  | succ k ih =>
    obtain ⟨u, hu⟩ := ih (by omega)
    obtain ⟨v, hstep, hv, hin⟩ := exists_compressionStep hu.compressing (by rw [hu.steps]; omega) hu.noReset
    exact ⟨v, runs_add hu.run (runs_one hstep), hv.compressing, by rw [hv.steps, hu.steps], hv.input.trans hu.input,
      dataInvariantKept u v hu.data hstep, noReset_of_inputsAfter hu.noReset hin,
      fun hheld => by rw [hin, hu.held hheld, hheld]⟩

/-- R177: what a compression from `s` leaves in `t`. -/
structure Compressed (s t : State) : Prop where
  h : t.h = compress s.h s.chunk
  phase : t.phase = s.ret.phase
  fill : t.fill = 0
  oidx : s.ret = .out → t.oidx = 0
  chunk : t.chunk = s.chunk
  setting : t.setting = s.setting
  held : inputsAfter false s.inputs = s.inputs → t.inputs = s.inputs

/-- R117, R177: a compression takes 162 steps. -/
theorem exists_compressed {s : State} (hp : s.phase = .sched) (ht : s.t.val = 0) (hr : NoReset s) :
    ∃ t, Runs 162 s t ∧ Compressed s t := by
  obtain ⟨u, hu⟩ := exists_compressionRun hp ht hr (Nat.le_refl 161)
  have hfold : u.phase = .fold := phase_of_compressionSteps hu.compressing hu.steps
  have hvars := (dataInv_iff_of_fold hfold).1 hu.data
  have hh : u.h = s.h := congrArg CompressionInput.h hu.input
  have hchunk : u.chunk = s.chunk := congrArg CompressionInput.chunk hu.input
  have hret : u.ret = s.ret := congrArg CompressionInput.ret hu.input
  have hstep := (step_of_microOp (rst_of_noReset hu.noReset) (microOp_of_fold hfold)).trans
    (exec_fold (s := passInput false u) hfold)
  refine ⟨_, runs_add hu.run (runs_one hstep), ?_, congrArg Ret.phase hret, rfl, fun ho => ?_, hchunk,
    congrArg CompressionInput.setting hu.input, fun hheld => ?_⟩
  · show foldVars u.h u.vars = _
    rw [hvars, hh, hchunk, compress]
  · exact if_pos (hret.trans ho)
  · show inputsAfter false u.inputs = _
    rw [hu.held hheld, hheld]

/-- Settles O46: the states within a compression are busy, and its last step leaves what FOLD writes. -/
theorem compressionComputes : Obligations.CompressionComputes := by
  intro s hp ht hr
  constructor
  · intro k hk
    obtain ⟨u, hu⟩ := exists_compressionRun hp ht hr (Nat.le_of_lt_succ hk)
    exact ⟨u, hu.run, busy_of_compressing hu.compressing⟩
  · obtain ⟨t, hrun, hc⟩ := exists_compressed hp ht hr
    exact ⟨t, hrun, hc.h, hc.phase, congrArg Fin.val hc.fill, fun ho => congrArg Fin.val (hc.oidx ho),
      congrArg Setting.ml hc.setting, hc.chunk, congrArg Setting.pstage hc.setting,
      congrArg Setting.err hc.setting, congrArg Setting.errCode hc.setting, congrArg Setting.delivered hc.setting⟩

end Sys2Proof.Machine
end

section
/-! SUPPORT. A host that holds its levels (R96), and the bytes of a padded message through the chunk buffer (R118). -/
namespace Sys2Proof.Machine

open Sys2Proof.Safety

/-! ### A host that holds its levels -/

/-- R96: a host that holds every command and every `out_ready` until it has acted, and never resets. -/
def Patient (l : List Drive) : Prop := ∀ d ∈ l, d.hold = true ∧ d.pins.rst = false

theorem Patient.of_cons {d : Drive} {ds : List Drive} (h : Patient (d :: ds)) : Patient ds :=
  fun e he => h e (List.mem_cons_of_mem d he)

theorem Patient.inputsAfter_false {l : List Drive} (h : Patient l) : inputsAfter false l = l := by
  cases l with
  | nil => rfl
  | cons d ds => exact inputsAfter_held (h d (by simp)).1

theorem Patient.noReset {s : State} (h : Patient s.inputs) : NoReset s := fun d hd => (h d hd).2

theorem Patient.passInput_false {s : State} (h : Patient s.inputs) : passInput false s = s := by
  rw [passInput, h.inputsAfter_false]

theorem patient_drive {l : Line} (h : l ≠ .reset) : l.drive.hold = true ∧ l.drive.pins.rst = false := by
  cases l with
  | reset => exact absurd rfl h
  | init | data | final | take | raw => exact ⟨rfl, rfl⟩

theorem patient_script {lines : List Line} (h : ∀ l ∈ lines, l ≠ .reset) : Patient (script lines) := by
  intro d hd
  obtain ⟨l, hl, rfl⟩ := List.mem_map.1 hd
  exact patient_drive (h l hl)

theorem script_digestLines (m : List Byte) :
    script (digestLines m) = script (messageLines m) ++ script take20Lines := List.map_append

theorem patient_digestLines (m : List Byte) : Patient (script (digestLines m)) :=
  patient_script fun l hl => by
    rintro rfl
    simp [digestLines, messageLines, bytesLines, take20Lines] at hl

theorem patient_messageLines (m : List Byte) : Patient (script (messageLines m)) := fun d hd =>
  patient_digestLines m d (script_digestLines m ▸ List.mem_append_left _ hd)

/-- R125: the levels of `INIT; DATA m[0]; ...; FINAL`. -/
theorem script_messageLines (m : List Byte) :
    script (messageLines m) = commandEntry 0x000#10 :: script (bytesLines m ++ [.final]) := rfl

/-! ### A command and a take on the port of an engine that is ready -/

theorem passInput_true_of_cons {s : State} {d : Drive} {ds : List Drive} (hi : s.inputs = d :: ds) :
    passInput true s = { s with inputs := ds } := by
  rw [passInput, inputsAfter_true, hi, List.tail_cons]

theorem step_of_commandEntry {s : State} {w : CmdWord} {ds : List Drive} {i : Instr}
    (hi : s.inputs = commandEntry w :: ds) (hc : cmdReady s = true) (hw : encode i = .cmd w) :
    step s = exec i { s with inputs := ds } := by
  have hpins : s.pins = (commandEntry w).pins := by rw [State.pins, hi]
  have ht : pinEvent s ≠ some .take := by simp [hpins, commandEntry]
  rw [step_of_ready (by rw [hpins]; rfl) hc, hostEdge_of_command ht (by rw [hpins]; rfl), passInput_true_of_cons hi,
    hpins]
  exact transfer_of_ok (decode_cmd_eq_ok_iff.2 hw) _

theorem step_of_takeEntry {s : State} {ds : List Drive} (hi : s.inputs = takeEntry :: ds) (hp : s.phase = .out) :
    step s = .next (advanceOidx (deliver { s with inputs := ds })) := by
  have hpins : s.pins = takeEntry.pins := by rw [State.pins, hi]
  have hv : outValid s = true := by simp [outValid, hp]
  have ht : pinEvent s = some .take := by simp [hpins, hv, takeEntry]
  rw [step_of_ready (by rw [hpins]; rfl) (cmdReady_of_outValid hv), hostEdge_of_take ht (by rw [hpins]; rfl),
    passInput_true_of_cons hi]
  exact if_pos hv

theorem cmdReady_of_accepting {s : State} (h : Accepting s) : cmdReady s = true := by
  rcases h with h | h | h <;> simp [cmdReady, Phase.cmdReady, h]

theorem exec_init {s : State} (h : Accepting s) :
    exec .init s = .next { s with h := IV, ml := 0, fill := 0, phase := .absorb } := by
  rw [exec, execInit, acceptCommand_of_accepting h]

theorem exec_data {s : State} (hp : s.phase = .absorb) (b : Byte) :
    exec (.data b) s = pushByte b .absorb { s with ml := s.ml + 8 } := by
  rw [exec, execData, acceptCommand_of_accepting (.inr (.inl hp)), if_pos hp]

theorem exec_final {s : State} (hp : s.phase = .absorb) :
    exec .final s = .next { s with pstage := .mark, phase := .pad } := by
  rw [exec, execFinal, acceptCommand_of_accepting (.inr (.inl hp)), if_pos hp]

/-! ### A padded message in the chunk buffer -/

/-- R118, R125: of the padded message `p` the first `i` bytes have passed: the whole chunks are compressed, the bytes
after them stand in the chunk buffer. -/
structure Fed (p : List Byte) (i : Nat) (s : State) : Prop where
  h : s.h = hashChunks p (i / 64)
  fill : s.fill.val = i % 64
  chunk : ∀ k : Fin 64, k.val < i % 64 → s.chunk[k] = p.getD (64 * (i / 64) + k.val) 0

/-- R118: the compression of chunk `n` of `p` starts. -/
structure ChunkStart (p : List Byte) (n : Nat) (s : State) : Prop where
  phase : s.phase = .sched
  t : s.t = 0
  chunk : s.chunk = chunkOf p n
  h : s.h = hashChunks p n

section
variable {p : List Byte} {i : Nat} {s : State}

/-- The byte at `i` joins the bytes of its chunk before it. -/
theorem Fed.withByte_chunk_get (hs : Fed p i s) (hlt : s.fill.val < 64) (k : Fin 64) (hk : k.val ≤ i % 64) :
    (withByte (p.getD i 0) s hlt).chunk[k] = p.getD (64 * (i / 64) + k.val) 0 := by
  rw [Machine.withByte_chunk_get, hs.fill]
  split
  next he => rw [he, Nat.div_add_mod]
  next hne => exact hs.chunk k (Nat.lt_of_le_of_ne hk hne)

theorem Fed.pushByte_of_room (hs : Fed p i s) (r : Ret) (hi : (i + 1) % 64 ≠ 0) :
    ∃ u, pushByte (p.getD i 0) r s = .next u ∧ Fed p (i + 1) u ∧ u.phase = s.phase ∧ u.setting = s.setting ∧
      u.inputs = s.inputs := by
  have hroom : s.fill.val + 1 < 64 := by rw [hs.fill]; omega
  have hdiv : (i + 1) / 64 = i / 64 := by omega
  have hmod : (i + 1) % 64 = i % 64 + 1 := by omega
  refine ⟨_, Machine.pushByte_of_room hroom, ⟨?_, ?_, fun k hk => ?_⟩, rfl, rfl, rfl⟩
  · rw [hdiv]
    exact hs.h
  · rw [hmod, ← hs.fill]
    rfl
  · rw [hdiv]
    exact hs.withByte_chunk_get _ k (by omega)

theorem Fed.pushByte_of_last (hs : Fed p i s) (r : Ret) (hi : (i + 1) % 64 = 0) :
    ∃ u, pushByte (p.getD i 0) r s = .next u ∧ ChunkStart p (i / 64) u ∧ u.ret = r ∧ u.setting = s.setting ∧
      u.inputs = s.inputs := by
  have hlast : s.fill.val + 1 = 64 := by rw [hs.fill]; omega
  refine ⟨_, Machine.pushByte_of_last hlast, ⟨rfl, rfl, Vector.ext fun k hk => ?_, hs.h⟩, rfl, rfl, rfl⟩
  rw [chunkOf, Vector.getElem_ofFn]
  exact hs.withByte_chunk_get (by omega) ⟨k, hk⟩ (by show k ≤ i % 64; omega)

/-- R118: compressing chunk `n` makes it one of the chunks that have passed. -/
theorem ChunkStart.fed_of_compressed {n : Nat} {t : State} (hs : ChunkStart p n s) (ht : Compressed s t) :
    Fed p (64 * (n + 1)) t := by
  have hmod : 64 * (n + 1) % 64 = 0 := Nat.mul_mod_right 64 (n + 1)
  refine ⟨?_, ?_, fun k hk => absurd hk (by omega)⟩
  · rw [ht.h, hs.h, hs.chunk, Nat.mul_div_cancel_left _ (by decide), hashChunks]
  · rw [ht.fill, hmod]
    rfl

end

/-! ### One byte more -/

/-- A byte takes its own step, the last of a chunk the 162 of the compression too. -/
def byteSteps (i : Nat) : Nat := if (i + 1) % 64 = 0 then 163 else 1

/-- The steps in which the first `i` bytes of a padded message pass. -/
def feedSteps (i : Nat) : Nat := i + 162 * (i / 64)

theorem feedSteps_succ (i : Nat) : feedSteps (i + 1) = feedSteps i + byteSteps i := by
  unfold feedSteps byteSteps
  split <;> omega

/-- `s` answers by writing byte `i` of `p` into the chunk of `s'`, where the bytes before it have passed. -/
structure Feeds (p : List Byte) (i : Nat) (r : Ret) (s s' : State) : Prop where
  step : step s = pushByte (p.getD i 0) r s'
  fed : Fed p i s'
  patient : Patient s'.inputs

/-- Byte `i` of `p` has passed as well, since the state `s`. -/
structure ByteFed (p : List Byte) (i : Nat) (r : Ret) (s u : State) : Prop where
  fed : Fed p (i + 1) u
  phase : u.phase = if (i + 1) % 64 = 0 then r.phase else s.phase
  oidx : (i + 1) % 64 = 0 → r = .out → u.oidx = 0
  setting : u.setting = s.setting
  inputs : u.inputs = s.inputs

section
variable {p : List Byte} {i : Nat} {r : Ret} {s s' : State}

theorem Feeds.exists_chunkStart (h : Feeds p i r s s') (hi : (i + 1) % 64 = 0) :
    ∃ u, Runs 1 s u ∧ ChunkStart p (i / 64) u := by
  obtain ⟨u, hpush, hu, -⟩ := h.fed.pushByte_of_last r hi
  exact ⟨u, runs_one (h.step.trans hpush), hu⟩

theorem Feeds.exists_byteFed (h : Feeds p i r s s') : ∃ u, Runs (byteSteps i) s u ∧ ByteFed p i r s' u := by
  by_cases hi : (i + 1) % 64 = 0
  · obtain ⟨v, hpush, hv, hret, hset, hin⟩ := h.fed.pushByte_of_last r hi
    have hpat : Patient v.inputs := hin ▸ h.patient
    obtain ⟨u, hrun, hu⟩ := exists_compressed hv.phase (congrArg Fin.val hv.t) hpat.noReset
    have hnext : i + 1 = 64 * (i / 64 + 1) := by omega
    refine ⟨u, ?_, ?_, ?_, fun _ ho => hu.oidx (hret.trans ho), hu.setting.trans hset,
      (hu.held hpat.inputsAfter_false).trans hin⟩
    · rw [byteSteps, if_pos hi]
      exact runs_add (runs_one (h.step.trans hpush)) hrun
    · rw [hnext]
      exact hv.fed_of_compressed hu
    · rw [if_pos hi, hu.phase, hret]
  · obtain ⟨u, hpush, hu, hphase, hset, hin⟩ := h.fed.pushByte_of_room r hi
    refine ⟨u, ?_, hu, ?_, fun h0 => absurd h0 hi, hset, hin⟩
    · rw [byteSteps, if_neg hi]
      exact runs_one (h.step.trans hpush)
    · rw [if_neg hi, hphase]

end

end Sys2Proof.Machine
end

section
/-! SUPPORT. One host call (R125): the bytes of `pad(m)` from INIT to the entry to OUT, and twenty takes that deliver the
digest. -/
namespace Sys2Proof.Machine

open Sys2Proof.Safety

/-! ### The message -/

/-- R125: `i` bytes of `m` have transferred since the host's call began in `s0`; after FINAL the host drives `after`. -/
structure InMessage (m : List Byte) (after : List Drive) (s0 : State) (i : Nat) (s : State) : Prop where
  phase : s.phase = .absorb
  fed : Fed (pad m) i s
  ml : s.ml = BitVec.ofNat 64 (8 * i)
  inputs : s.inputs = script (bytesLines (m.drop i) ++ [.final]) ++ after
  patient : Patient s.inputs
  err : s.err = s0.err
  delivered : s.delivered = s0.delivered

theorem pad_getD_of_lt {m : List Byte} {i : Nat} (hi : i < m.length) : (pad m).getD i 0 = m[i] := by
  obtain ⟨-, -, -, -, -, -, -, hmessage, -⟩ := paddedMessageLayout m
  rw [List.getD_eq_getElem?_getD, hmessage i hi, List.getElem?_eq_getElem hi, Option.getD_some]

/-- R131: eight bits more for each byte. -/
theorem ofNat_add_eight (i : Nat) : (BitVec.ofNat 64 (8 * i) + 8 : Length) = BitVec.ofNat 64 (8 * (i + 1)) :=
  (BitVec.ofNat_add (8 * i) 8).symm

section
variable {m : List Byte} {after : List Drive} {s0 s : State} {i : Nat}

/-- R130: INIT begins the message. -/
theorem exists_inMessage_zero (ha : Accepting s) (hi : s.inputs = script (messageLines m) ++ after)
    (hp : Patient s.inputs) : ∃ u, Runs 1 s u ∧ InMessage m after s 0 u := by
  rw [script_messageLines, List.cons_append] at hi
  have hstep := (step_of_commandEntry hi (cmdReady_of_accepting ha) (i := .init) rfl).trans (exec_init ha)
  rw [hi] at hp
  exact ⟨_, runs_one hstep, rfl, ⟨rfl, rfl, fun k hk => absurd hk (Nat.not_lt_zero _)⟩, rfl, rfl, hp.of_cons, rfl, rfl⟩

theorem InMessage.inputs_of_lt (h : InMessage m after s0 i s) (hi : i < m.length) : s.inputs =
    commandEntry (1#2 ++ m[i]) :: (script (bytesLines (m.drop (i + 1)) ++ [.final]) ++ after) := by
  rw [h.inputs, List.drop_eq_getElem_cons hi]
  rfl

/-- R131: the next command writes the next byte of the message. -/
theorem InMessage.feeds (h : InMessage m after s0 i s) (hi : i < m.length) :
    Feeds (pad m) i .absorb s { s with inputs := s.inputs.tail, ml := s.ml + 8 } := by
  have hin := h.inputs_of_lt hi
  have hready : cmdReady s = true := cmdReady_of_accepting (.inr (.inl h.phase))
  have hpat := hin ▸ h.patient
  refine ⟨?_, ⟨h.fed.h, h.fed.fill, h.fed.chunk⟩, ?_⟩
  · rw [step_of_commandEntry hin hready (i := .data m[i]) rfl, exec_data (by exact h.phase), pad_getD_of_lt hi, hin,
      List.tail_cons]
  · rw [hin]
    exact hpat.of_cons

theorem InMessage.exists_succ (h : InMessage m after s0 i s) (hi : i < m.length) :
    ∃ u, Runs (byteSteps i) s u ∧ InMessage m after s0 (i + 1) u := by
  have hfeeds := h.feeds hi
  obtain ⟨u, hrun, hu⟩ := hfeeds.exists_byteFed
  have hphase : u.phase = .absorb := by rw [hu.phase]; split; exacts [rfl, h.phase]
  have hml : u.ml = s.ml + 8 := congrArg Setting.ml hu.setting
  have hin : u.inputs = s.inputs.tail := hu.inputs
  refine ⟨u, hrun, hphase, hu.fed, ?_, ?_, ?_, (congrArg Setting.err hu.setting).trans h.err,
    (congrArg Setting.delivered hu.setting).trans h.delivered⟩
  · rw [hml, h.ml, ofNat_add_eight]
  · rw [hin, h.inputs_of_lt hi, List.tail_cons]
  · rw [hin]
    exact hfeeds.patient

theorem exists_inMessage (ha : Accepting s) (hi : s.inputs = script (messageLines m) ++ after)
    (hp : Patient s.inputs) {i : Nat} (hle : i ≤ m.length) :
    ∃ u, Runs (1 + feedSteps i) s u ∧ InMessage m after s i u := by
  induction i with
  | zero => exact exists_inMessage_zero ha hi hp
  | succ i ih =>
    obtain ⟨u, hrun, hu⟩ := ih (Nat.le_of_succ_le hle)
    obtain ⟨v, hrun', hv⟩ := hu.exists_succ hle
    refine ⟨v, ?_, hv⟩
    rw [feedSteps_succ, ← Nat.add_assoc]
    exact runs_add hrun hrun'

end

/-! ### The padding -/

/-- R85, R153: the padding stage in which byte `i` of `pad(m)` is written, for a message of `l` bytes. -/
def padStageAt (l i : Nat) : PStage :=
  if i = l then .mark else if i < l + 1 + zeroCount l then .zero else .len

theorem padStageAt_of_marker (l : Nat) : padStageAt l l = .mark := if_pos rfl

theorem padStageAt_of_zero {l i : Nat} (hl : l < i) (hi : i < l + 1 + zeroCount l) : padStageAt l i = .zero := by
  rw [padStageAt, if_neg (by omega), if_pos hi]

theorem padStageAt_of_len {l i : Nat} (hi : l + 1 + zeroCount l ≤ i) : padStageAt l i = .len := by
  rw [padStageAt, if_neg (by omega), if_neg (by omega)]

theorem padStageAt_eq_len_iff {l i : Nat} : padStageAt l i = .len ↔ l + 1 + zeroCount l ≤ i := by
  refine ⟨fun h => ?_, padStageAt_of_len⟩
  by_contra hlt
  rw [padStageAt] at h
  split at h
  · cases h
  · rw [if_pos (by omega)] at h
    cases h

/-- R125: the padder has written the bytes of `pad(m)` up to `i`; the host drives `after`. -/
structure InPadding (m : List Byte) (after : List Drive) (s0 : State) (i : Nat) (s : State) : Prop where
  phase : s.phase = .pad
  pstage : s.pstage = padStageAt m.length i
  fed : Fed (pad m) i s
  ml : s.ml = messageLength m
  inputs : s.inputs = after
  patient : Patient s.inputs
  err : s.err = s0.err
  delivered : s.delivered = s0.delivered

section
variable {m : List Byte} {after : List Drive} {s0 s : State} {i : Nat}

/-- R132: FINAL begins the padding. -/
theorem InMessage.exists_inPadding (h : InMessage m after s0 m.length s) :
    ∃ u, Runs 1 s u ∧ InPadding m after s0 m.length u := by
  have hin : s.inputs = commandEntry 0x200#10 :: after := by
    rw [h.inputs, List.drop_length]
    rfl
  have hready : cmdReady s = true := cmdReady_of_accepting (.inr (.inl h.phase))
  have hpat := hin ▸ h.patient
  have hstep := (step_of_commandEntry hin hready (i := .final) rfl).trans (exec_final (by exact h.phase))
  exact ⟨_, runs_one hstep, rfl, (padStageAt_of_marker _).symm, ⟨h.fed.h, h.fed.fill, h.fed.chunk⟩, h.ml, rfl,
    hpat.of_cons, h.err, h.delivered⟩

/-- R153: the stage after a padder step is that of the next byte. -/
theorem nextPStage_eq {l : Nat} (hst : s.pstage = padStageAt l i) (hf : s.fill.val = i % 64) (hi : l ≤ i) :
    nextPStage s = padStageAt l (i + 1) := by
  have hlen : s.pstage = .len ↔ l + 1 + zeroCount l ≤ i := by rw [hst, padStageAt_eq_len_iff]
  have h56 : (l + 1 + zeroCount l) % 64 = 56 := by unfold zeroCount; omega
  have hz := zeroCount_lt l
  rcases nextPStage_cases s with ⟨hl, hn⟩ | ⟨hl, hfill, hn⟩ | ⟨hl, hfill, hn⟩
  · rw [hn, padStageAt_of_len (Nat.le_succ_of_le (hlen.1 hl))]
  · rw [ne_eq, hlen] at hl
    rw [hn, padStageAt_of_len (by omega)]
  · rw [ne_eq, hlen] at hl
    rw [hn, padStageAt_of_zero (by omega) (by omega)]

/-- R150 to R152: the padder's step writes the next byte of `pad(m)`. -/
theorem InPadding.exec_eq (h : InPadding m after s0 i s) (hl : m.length ≤ i) (hi : i < 64 * chunkCount m.length) :
    exec (padInstr s.pstage) s = padStep ((pad m).getD i 0) s := by
  obtain ⟨-, -, -, -, -, -, -, -, hmarker, hzeros, hlength⟩ := paddedMessageLayout m
  have hchunks := zeroCount_add m.length
  rw [List.getD_eq_getElem?_getD]
  rcases Nat.eq_or_lt_of_le hl with rfl | hl
  · have hst := h.pstage.trans (padStageAt_of_marker _)
    rw [hmarker, hst]
    exact exec_padmark h.phase hst
  rcases Nat.lt_or_ge i (m.length + 1 + zeroCount m.length) with hz | hz
  · have hst := h.pstage.trans (padStageAt_of_zero hl hz)
    obtain ⟨z, rfl⟩ := Nat.exists_eq_add_of_le hl
    rw [hzeros z (by omega), hst]
    exact exec_padzero h.phase hst
  · have hst := h.pstage.trans (padStageAt_of_len hz)
    obtain ⟨j, rfl⟩ := Nat.exists_eq_add_of_le hz
    have hf := h.fed.fill
    have hj : s.fill.val - 56 = j := by omega
    rw [hlength ⟨j, by omega⟩, hst, padInstr, exec_padlen_of_lengthByte h.phase hst (by omega) (by omega), h.ml]
    simp only [hj]
    rfl

theorem InPadding.feeds (h : InPadding m after s0 i s) (hl : m.length ≤ i) (hi : i < 64 * chunkCount m.length) :
    Feeds (pad m) i (padRet s) s { s with pstage := nextPStage s } := by
  refine ⟨?_, ⟨h.fed.h, h.fed.fill, h.fed.chunk⟩, h.patient⟩
  rw [step_of_microOp (rst_of_noReset h.patient.noReset) (microOp_of_pad h.phase), h.patient.passInput_false,
    h.exec_eq hl hi, padStep_eq]

/-- R153: before the last byte, the padder goes on. -/
theorem InPadding.exists_succ (h : InPadding m after s0 i s) (hl : m.length ≤ i)
    (hi : i + 1 < 64 * chunkCount m.length) : ∃ u, Runs (byteSteps i) s u ∧ InPadding m after s0 (i + 1) u := by
  obtain ⟨u, hrun, hu⟩ := (h.feeds hl (by omega)).exists_byteFed
  have hchunks := zeroCount_add m.length
  have hphase : u.phase = .pad := by
    rw [hu.phase]
    split
    next hend =>
      have hne : s.pstage ≠ .len := by
        rw [h.pstage, ne_eq, padStageAt_eq_len_iff]
        omega
      rw [padRet, if_neg hne, Ret.phase]
    next => exact h.phase
  exact ⟨u, hrun, hphase, (congrArg Setting.pstage hu.setting).trans (nextPStage_eq h.pstage h.fed.fill hl), hu.fed,
    (congrArg Setting.ml hu.setting).trans h.ml, hu.inputs.trans h.inputs, hu.inputs ▸ h.patient,
    (congrArg Setting.err hu.setting).trans h.err, (congrArg Setting.delivered hu.setting).trans h.delivered⟩

theorem exists_inPadding (ha : Accepting s) (hin : s.inputs = script (messageLines m) ++ after)
    (hp : Patient s.inputs) (hl : m.length ≤ i) (hi : i < 64 * chunkCount m.length) :
    ∃ u, Runs (2 + feedSteps i) s u ∧ InPadding m after s i u := by
  induction i, hl using Nat.le_induction with
  | base =>
    obtain ⟨u, hrun, hu⟩ := exists_inMessage ha hin hp (Nat.le_refl m.length)
    obtain ⟨v, hrun', hv⟩ := hu.exists_inPadding
    refine ⟨v, ?_, hv⟩
    rw [show 2 + feedSteps m.length = 1 + feedSteps m.length + 1 by omega]
    exact runs_add hrun hrun'
  | succ i hl ih =>
    obtain ⟨u, hrun, hu⟩ := ih (by omega)
    obtain ⟨v, hrun', hv⟩ := hu.exists_succ hl hi
    refine ⟨v, ?_, hv⟩
    rw [feedSteps_succ, ← Nat.add_assoc]
    exact runs_add hrun hrun'

/-- R125, R156: the counted steps lead to the last byte of chunk `n`, which DATA or the padder feeds. -/
theorem exists_feeds_last {n : Nat} (ha : Accepting s) (hin : s.inputs = script (messageLines m) ++ after)
    (hp : Patient s.inputs) (hn : n < chunkCount m.length) :
    ∃ k u r s', stepsToChunk m.length n = k + 1 ∧ Runs k s u ∧ Feeds (pad m) (64 * n + 63) r u s' := by
  have hfeed : feedSteps (64 * n + 63) = 64 * n + 63 + 162 * n := by unfold feedSteps; omega
  rcases Nat.lt_or_ge (64 * n + 63) m.length with hl | hl
  · obtain ⟨u, hrun, hu⟩ := exists_inMessage ha hin hp (Nat.le_of_lt hl)
    refine ⟨_, u, _, _, ?_, hrun, hu.feeds hl⟩
    rw [stepsToChunk, hfeed, if_neg (by omega)]
    omega
  · obtain ⟨u, hrun, hu⟩ := exists_inPadding ha hin hp hl (by omega)
    refine ⟨_, u, _, _, ?_, hrun, hu.feeds hl (by omega)⟩
    rw [stepsToChunk, hfeed, if_pos (by omega)]
    omega

/-- R125: the counted steps lead to OUT, where the first byte of the digest is offered. -/
theorem exists_out (ha : Accepting s) (hin : s.inputs = script (messageLines m) ++ after) (hp : Patient s.inputs) :
    ∃ u, Runs (stepsToOut m.length) s u ∧ u.phase = .out ∧ u.oidx = 0 ∧ u.h = finalHash m ∧ u.inputs = after ∧
      u.err = s.err ∧ u.delivered = s.delivered := by
  have hchunks := zeroCount_add m.length
  obtain ⟨i, hi⟩ : ∃ i, i + 1 = 64 * chunkCount m.length := ⟨m.length + zeroCount m.length + 8, by omega⟩
  have hend : (i + 1) % 64 = 0 := by omega
  obtain ⟨v, hrun, hv⟩ := exists_inPadding ha hin hp (i := i) (by omega) (by omega)
  obtain ⟨u, hrun', hu⟩ := (hv.feeds (by omega) (by omega)).exists_byteFed
  have hst : v.pstage = .len := hv.pstage.trans (padStageAt_of_len (by omega))
  have hret : padRet v = .out := if_pos hst
  have hsteps : stepsToOut m.length = 2 + feedSteps i + byteSteps i := by
    rw [Nat.add_assoc, ← feedSteps_succ, hi, stepsToOut, feedSteps, Nat.mul_div_cancel_left _ (by decide)]
    omega
  refine ⟨u, ?_, ?_, hu.oidx hend hret, ?_, hu.inputs.trans hv.inputs, (congrArg Setting.err hu.setting).trans hv.err,
    (congrArg Setting.delivered hu.setting).trans hv.delivered⟩
  · rw [hsteps]
    exact runs_add hrun hrun'
  · rw [hu.phase, if_pos hend, hret, Ret.phase]
  · rw [hu.fed.h, hi, Nat.mul_div_cancel_left _ (by decide), finalHash]

end

/-! ### The offered digest -/

/-- R190, R191: `k` bytes of the digest of `H` have been taken since `s0`, and the host takes the others. -/
structure Offering (H : Vector Word 5) (s0 : State) (k : Nat) (s : State) : Prop where
  phase : s.phase = if k < 20 then .out else .idle
  oidx : k < 20 → s.oidx.val = k
  h : s.h = H
  delivered : s.delivered = s0.delivered ++ (digestBytes H).take k
  inputs : s.inputs = List.replicate (20 - k) takeEntry
  err : s.err = s0.err

section
variable {H : Vector Word 5} {s0 s : State} {k : Nat}

theorem outData_of_out (hp : s.phase = .out) : outData s = digestByte s.h s.oidx := if_pos (by simp [outValid, hp])

theorem nextOidx_of_lt (h : s.oidx.val < 19) : nextOidx s = ⟨s.oidx.val + 1, Nat.succ_lt_succ h⟩ := dif_pos h

/-- R191: a take delivers the next byte of the digest, the last one leads to IDLE. -/
theorem Offering.exists_succ (h : Offering H s0 k s) (hk : k < 20) :
    ∃ u, Runs 1 s u ∧ Offering H s0 (k + 1) u := by
  have hp : s.phase = .out := by rw [h.phase, if_pos hk]
  have ho : s.oidx.val = k := h.oidx hk
  have hin : s.inputs = takeEntry :: List.replicate (20 - (k + 1)) takeEntry := by
    rw [h.inputs, ← List.replicate_succ]
    congr 1
    omega
  have hbyte : outData s = digestByte H ⟨k, hk⟩ := by rw [outData_of_out hp, h.h, Fin.ext (b := ⟨k, hk⟩) ho]
  refine ⟨_, runs_one (step_of_takeEntry hin hp), ?_, fun hlt => ?_, h.h, ?_, rfl, h.err⟩
  · have hlast : s.oidx.val < 19 ↔ k + 1 < 20 := by rw [ho]; omega
    simp only [advanceOidx_phase, deliver_oidx, deliver_phase, hlast, hp]
  · rw [advanceOidx_oidx, nextOidx_of_lt (by show s.oidx.val < 19; omega)]
    exact congrArg (· + 1) ho
  · show s.delivered ++ [outData s] = _
    rw [hbyte, h.delivered, List.append_assoc, List.take_add_one, digestBytes_get H ⟨k, hk⟩, Option.toList_some]

theorem Offering.exists_of_le (h : Offering H s0 0 s) (hk : k ≤ 20) : ∃ u, Runs k s u ∧ Offering H s0 k u := by
  induction k with
  | zero => exact ⟨s, runs_zero s, h⟩
  | succ k ih =>
    obtain ⟨u, hrun, hu⟩ := ih (Nat.le_of_succ_le hk)
    obtain ⟨v, hrun', hv⟩ := hu.exists_succ hk
    exact ⟨v, runs_add hrun hrun', hv⟩

end

/-! ### The statements -/

/-- Settles O50: the compression of chunk `n` starts when the last of its bytes is fed. -/
theorem chunksArePaddedMessage : Obligations.ChunksArePaddedMessage := by
  intro m s n ha hin hn
  have hpat : Patient s.inputs := hin ▸ patient_messageLines m
  rw [← List.append_nil (script _)] at hin
  obtain ⟨k, u, r, s', hsteps, hrun, hu⟩ := exists_feeds_last ha hin hpat hn
  obtain ⟨v, hrun', hv⟩ := hu.exists_chunkStart (by omega)
  rw [show (64 * n + 63) / 64 = n by omega] at hv
  exact ⟨v, hsteps ▸ runs_add hrun hrun', hv.phase, congrArg Fin.val hv.t, hv.chunk, hv.h⟩

/-- Settles O51: the bytes of `pad(m)` lead to OUT with the final `H`, and each take delivers the next byte of it. -/
theorem machineDeliversDigest : Obligations.MachineDeliversDigest := by
  intro m s ha hin
  have hpat : Patient s.inputs := hin ▸ patient_digestLines m
  rw [script_digestLines] at hin
  obtain ⟨t, hrun, hphase, hoidx, hh, hinputs, herr, hdel⟩ := exists_out ha hin hpat
  refine ⟨⟨t, hrun, hphase, congrArg Fin.val hoidx, hh, herr, hdel⟩, ?_⟩
  have hoffer : Offering (finalHash m) s 0 t :=
    ⟨hphase, fun _ => congrArg Fin.val hoidx, hh, by rw [hdel, List.take_zero, List.append_nil], hinputs, herr⟩
  obtain ⟨u, hrun', hu⟩ := hoffer.exists_of_le (Nat.le_refl 20)
  refine ⟨u, runs_add hrun hrun', hu.phase, ?_, hu.inputs, hu.err⟩
  rw [hu.delivered, digest_eq, List.take_of_length_le (by rw [digestBytes_length])]

end Sys2Proof.Machine
end

section
/-! SUPPORT. The host commands (R130 to R137): what each does in each phase, that no instruction reads what the host
drives, and the statements of spec/41_commands.md. -/
namespace Sys2Proof.Machine

/-! ### A command out of sequence (R137) -/

/-- R137: in IDLE and OUT a sequenced command raises its fault. -/
theorem acceptCommand_of_outOfSequence {k : State → Result} {code : BitVec 2} {s : State}
    (hp : s.phase = .idle ∨ s.phase = .out) :
    acceptCommand (fun s => if s.phase = .absorb then k s else .next (raiseFault code s)) s =
      .next (raiseFault code s) := by
  have hne : s.phase ≠ .absorb := by rcases hp with hp | hp <;> simp [hp]
  rw [acceptCommand_of_accepting (hp.imp_right .inr), if_neg hne]

theorem exec_data_of_outOfSequence {s : State} (hp : s.phase = .idle ∨ s.phase = .out) (b : Byte) :
    exec (.data b) s = .next (raiseFault seqData s) := by
  rw [exec, execData, acceptCommand_of_outOfSequence hp]

theorem exec_final_of_outOfSequence {s : State} (hp : s.phase = .idle ∨ s.phase = .out) :
    exec .final s = .next (raiseFault seqFinal s) := by
  rw [exec, execFinal, acceptCommand_of_outOfSequence hp]

/-- R83: DATA's word is the pattern of its row with the operand in bits 7:0. -/
theorem encode_data_eq (b : Byte) : encode (.data b) = .cmd (0x100#10 ||| b.setWidth 10) := by
  rw [encode, BitVec.append_def]
  rfl

/-! ### A command on the port of a busy engine (R135) -/

theorem acceptCommand_of_busy {s : State} (hb : busy s = true) (k : State → Result) : acceptCommand k s = .next s := by
  apply acceptCommand_of_not_accepting
  rcases (busy_iff s).1 hb with hp | hp | hp | hp | hp <;> simp [hp]

theorem exec_command_of_busy {s : State} (hb : busy s = true) {w : CmdWord} {i : Instr}
    (hi : decode (.cmd w) = .ok i) : exec i s = .next s := by
  rcases command_of_decode hi with rfl | ⟨b, rfl⟩ | rfl
  all_goals
    unfold exec
    exact acceptCommand_of_busy hb _

theorem transfer_of_busy {s : State} (hb : busy s = true) (w : CmdWord) : transfer w s = .next s := by
  rcases transfer_cases w s with ⟨i, hi, ht⟩ | ⟨-, ht⟩
  · exact ht.trans (exec_command_of_busy hb (decode?_eq_some_iff.1 hi))
  · exact ht.trans (acceptCommand_of_busy hb _)

/-! ### What the host drives is not read -/

/-- The same state under a host that drives `l`. -/
def State.withInputs (l : List Drive) (s : State) : State := { s with inputs := l }

/-- The same answer under a host that drives `l`. -/
def resultWithInputs (l : List Drive) : Result → Result
  | .next s => .next (s.withInputs l)
  | .fault f => .fault f
  | .refused q => .refused q

theorem ite_withInputs {c : Prop} [Decidable c] {l : List Drive} {r1 r2 r1' r2' : Result}
    (h1 : r1' = resultWithInputs l r1) (h2 : r2' = resultWithInputs l r2) :
    (if c then r1' else r2') = resultWithInputs l (if c then r1 else r2) := by
  rw [apply_ite (resultWithInputs l), h1, h2]

theorem dite_withInputs {c : Prop} [Decidable c] {l : List Drive} {r1 r1' : c → Result} {r2 r2' : ¬c → Result}
    (h1 : ∀ h, r1' h = resultWithInputs l (r1 h)) (h2 : ∀ h, r2' h = resultWithInputs l (r2 h)) :
    dite c r1' r2' = resultWithInputs l (dite c r1 r2) := by
  rw [apply_dite (resultWithInputs l), funext h1, funext h2]

theorem acceptCommand_withInputs {l : List Drive} {k : State → Result}
    (hk : ∀ s, k (s.withInputs l) = resultWithInputs l (k s)) (s : State) :
    acceptCommand k (s.withInputs l) = resultWithInputs l (acceptCommand k s) := by
  rcases acceptCommand_cases k s with ⟨hw, hna⟩ | ⟨he, ha⟩
  · rw [hw, acceptCommand_of_not_accepting (s := s.withInputs l) hna]
    rfl
  · rw [he, ← hk, acceptCommand_of_accepting (s := s.withInputs l) ha]

theorem pushByte_withInputs (v : Byte) (r : Ret) (l : List Drive) (s : State) :
    pushByte v r (s.withInputs l) = resultWithInputs l (pushByte v r s) := by
  have hle : s.fill.val ≤ 64 := Nat.le_of_lt_succ s.fill.isLt
  rcases Nat.lt_trichotomy (s.fill.val + 1) 64 with h | h | h
  · rw [pushByte_of_room h, pushByte_of_room (s := s.withInputs l) h]
    rfl
  · rw [pushByte_of_last h, pushByte_of_last (s := s.withInputs l) h]
    rfl
  · have hf : s.fill.val = 64 := by omega
    rw [pushByte_of_full hf, pushByte_of_full (s := s.withInputs l) hf]
    rfl

theorem padStep_withInputs (v : Byte) (l : List Drive) (s : State) :
    padStep v (s.withInputs l) = resultWithInputs l (padStep v s) :=
  pushByte_withInputs v (padRet s) l { s with pstage := nextPStage s }

/-- Log 4: an instruction does the same whatever the host drives. -/
theorem exec_withInputs (i : Instr) (l : List Drive) (s : State) :
    exec i (s.withInputs l) = resultWithInputs l (exec i s) := by
  unfold exec
  cases i with
  | init => exact acceptCommand_withInputs (fun _ => rfl) s
  | data b =>
    refine acceptCommand_withInputs (fun u => ?_) s
    exact ite_withInputs (pushByte_withInputs b .absorb l { u with ml := u.ml + 8 }) rfl
  | final =>
    refine acceptCommand_withInputs (fun u => ?_) s
    exact ite_withInputs rfl rfl
  | reset => rfl
  | padmark | padzero => exact ite_withInputs (padStep_withInputs _ l s) rfl
  | padlen =>
    exact ite_withInputs (ite_withInputs rfl (dite_withInputs (fun _ => padStep_withInputs _ l s) fun _ => rfl)) rfl
  | wload => exact dite_withInputs (fun _ => rfl) fun _ => rfl
  | take | wexp | binit | rnd0 | rnd1 | rnd2 | rnd3 | fold => exact ite_withInputs rfl rfl

/-! ### The statements -/

/-- Settles O15: the word is discarded, and at most the head of the input levels goes. -/
theorem commandInFaultDiscarded : Obligations.CommandInFaultDiscarded := by
  refine ⟨fun w s hp => ⟨by simp [cmdReady, Phase.cmdReady, hp], transfer_of_fault hp w⟩, fun s hp hr => ?_⟩
  rw [step_of_fault hp hr]
  rcases passInput_cases s.pins.cmdValid s with h | h
  · exact ⟨0, congrArg _ h⟩
  · exact ⟨1, congrArg _ h⟩

/-- Settles O17: the engine runs its micro-operation, which does not read the input levels, and the held word stays. -/
theorem commandWaitsWhileBusy : Obligations.CommandWaitsWhileBusy := by
  refine ⟨fun s1 s2 hp => congrArg Phase.cmdReady hp, fun s w ds t hb hin hstep => ?_⟩
  obtain ⟨i, hi⟩ := Option.isSome_iff_exists.1 ((microOp_isSome s).trans hb)
  have hr : s.pins.rst = false := by rw [State.pins, hin]; rfl
  have hheld : passInput false s = s := by rw [passInput, hin, inputsAfter_held rfl, ← hin]
  rw [step_of_microOp hr hi, hheld] at hstep
  refine ⟨(effect_of_exec hstep).host.1, ?_⟩
  calc step (s.withInputs [])
      = exec i (s.withInputs []) := step_of_microOp rfl hi
    _ = resultWithInputs [] (exec i s) := exec_withInputs i [] s
    _ = .next (t.withInputs []) := by rw [hstep, resultWithInputs]

/-- Settles O10: INIT by its definition, and a second INIT writes what the first one wrote. -/
theorem initBeginsMessage : Obligations.InitBeginsMessage := fun _ hp =>
  ⟨exec_init hp, rfl, rfl, exec_init (.inr (.inl rfl))⟩

/-- Settles O11: DATA is `pushByte` at the length counted up, or the fault of R137. -/
theorem dataAppendsByte : Obligations.DataAppendsByte := by
  refine ⟨fun b s hf hp => ⟨fun hroom => ?_, fun hlast => ?_⟩, fun b s hp => exec_data_of_outOfSequence hp b⟩
  · rw [exec_data hp]
    exact pushByte_of_room (s := { s with ml := s.ml + 8 }) hroom
  · rw [exec_data hp]
    exact pushByte_of_last (s := { s with ml := s.ml + 8 }) hlast

/-- Settles O12: FINAL in ABSORB, and the fault of R137. -/
theorem finalStartsPadding : Obligations.FinalStartsPadding :=
  ⟨fun _ => exec_final, fun _ => exec_final_of_outOfSequence⟩

/-- Settles O13: each word decodes to its command, which raises its fault or, as INIT, is executed. -/
theorem outOfSequenceFaults : Obligations.OutOfSequenceFaults := by
  intro s hp
  refine ⟨fun b => ?data, ?final, ?init⟩
  case data =>
    rw [transfer_of_ok (decode_cmd_eq_ok_iff.2 (encode_data_eq b))]
    exact exec_data_of_outOfSequence hp b
  case final =>
    rw [transfer_of_ok (decode_cmd_eq_final_iff.2 rfl)]
    exact exec_final_of_outOfSequence hp
  case init =>
    rw [transfer_of_ok (decode_cmd_eq_init_iff.2 rfl), exec_init (hp.imp_right .inr)]
    exact ⟨_, rfl, rfl, rfl⟩

/-- Settles O53: a busy engine accepts no command. -/
theorem busyEngineIgnoresCommand : Obligations.BusyEngineIgnoresCommand := fun _ hb =>
  ⟨exec_command_of_busy hb (decode_encode .init), fun b => exec_command_of_busy hb (decode_encode (.data b)),
    exec_command_of_busy hb (decode_encode .final), transfer_of_busy hb⟩

end Sys2Proof.Machine
end

section
/-! SUPPORT. The padder by its steps (R150 to R153): the whole effect of each, that the engine is busy up to the entry
to OUT (R154, R237), and that the chunks of `pad(m)` are all that is compressed (R156). -/
namespace Sys2Proof.Machine

open Sys2Proof.Safety

/-! ### One padder step -/

theorem nextPStage_of_len {s : State} (hst : s.pstage = .len) : nextPStage s = .len := if_pos hst

theorem nextPStage_of_ne_len {s : State} (hst : s.pstage ≠ .len) :
    nextPStage s = if s.fill.val + 1 = 56 then .len else .zero := if_neg hst

theorem padRet_of_len {s : State} (hst : s.pstage = .len) : padRet s = .out := if_pos hst

theorem padRet_of_ne_len {s : State} (hst : s.pstage ≠ .len) : padRet s = .pad := if_neg hst

/-- R153: what a padder step writes, by the stage and the phase it leads to. -/
theorem padStep_effect {v : Byte} {s : State} {st : PStage} {r : Ret} (hst : nextPStage s = st) (hret : padRet s = r)
    (hf : s.fill.val < 64) :
    (s.fill.val + 1 < 64 → padStep v s = .next (withByte v { s with pstage := st } hf)) ∧
      (s.fill.val + 1 = 64 → padStep v s = .next (startCompression r (withByte v { s with pstage := st } hf))) := by
  subst hst hret
  exact ⟨pushByte_of_room (s := { s with pstage := nextPStage s }),
    pushByte_of_last (s := { s with pstage := nextPStage s })⟩

/-- Settles O18: PADMARK is a padder step before the length field. -/
theorem padmarkAppendsMarker : Obligations.PadmarkAppendsMarker := by
  intro s hf hp hst t
  have hne : s.pstage ≠ .len := by rw [hst]; decide
  rw [exec_padmark hp hst]
  exact padStep_effect (nextPStage_of_ne_len hne) (padRet_of_ne_len hne) hf

/-- Settles O19: PADZERO is a padder step before the length field. -/
theorem padzeroAppendsZero : Obligations.PadzeroAppendsZero := by
  intro s hf hp hst t
  have hne : s.pstage ≠ .len := by rw [hst]; decide
  rw [exec_padzero hp hst]
  exact padStep_effect (nextPStage_of_ne_len hne) (padRet_of_ne_len hne) hf

/-- Settles O20: PADLEN is a padder step within the length field, which the stage does not leave. -/
theorem padlenAppendsLengthByte : Obligations.PadlenAppendsLengthByte := by
  intro s hf hp hst h56 t
  rw [exec_padlen_of_lengthByte hp hst h56 (by omega)]
  have hstage : nextPStage s = s.pstage := (nextPStage_of_len hst).trans hst.symm
  exact padStep_effect hstage (padRet_of_len hst) hf

end Sys2Proof.Machine
end

section
/-! SUPPORT. A byte of a padded message by its steps, and the padder's run to the entry to OUT (R154, R237). -/
namespace Sys2Proof.Machine

open Sys2Proof.Safety

/-! ### No reset in a run -/

/-- The host drives no level that it was not going to drive. -/
theorem noReset_of_step {s t : State} (hs : NoReset s) (h : step s = .next t) : NoReset t :=
  step_keeps (P := fun s => NoReset s) (fun _ _ hr => noReset_of_inputsAfter hr rfl)
    (fun _ _ _ hr he d hd => hr d (he.host.1 ▸ hd)) (fun _ hr => hr) hs h

theorem noReset_of_runs {k : Nat} {s t : State} (hs : NoReset s) (h : Runs k s t) : NoReset t := by
  induction k generalizing s with
  | zero =>
    cases h
    exact hs
  | succ k ih =>
    obtain ⟨u, hu, hrun⟩ := runs_succ_iff.1 h
    exact ih (noReset_of_step hs hu) hrun

/-! ### The steps of one byte -/

theorem byteSteps_pos (i : Nat) : 0 < byteSteps i := by
  unfold byteSteps
  split <;> decide

theorem feedSteps_strictMono : StrictMono feedSteps :=
  strictMono_nat_of_lt_succ fun i => feedSteps_succ i ▸ Nat.lt_add_of_pos_right (byteSteps_pos i)

/-- Every number of steps ends within the steps of some byte. -/
theorem exists_feedSteps_add (n : Nat) : ∃ i j, n = feedSteps i + j ∧ j < byteSteps i := by
  induction n with
  | zero => exact ⟨0, 0, rfl, by decide⟩
  | succ n ih =>
    obtain ⟨i, j, hn, hj⟩ := ih
    rcases Nat.lt_or_ge (j + 1) (byteSteps i) with hlt | hge
    · exact ⟨i, j + 1, by omega, hlt⟩
    · exact ⟨i + 1, 0, by rw [feedSteps_succ]; omega, byteSteps_pos (i + 1)⟩

/-- `s` answers by writing a byte, the one at `i` of a padded message, into the chunk of `s'`. -/
structure Pushes (i : Nat) (r : Ret) (s s' : State) : Prop where
  step : ∃ v, step s = pushByte v r s'
  fill : s'.fill.val = i % 64
  noReset : NoReset s'

/-- The steps of the byte at `i` lead to `u`, the phase after a compression being `r`. -/
structure Pushed (i : Nat) (r : Ret) (s u : State) : Prop where
  phase : u.phase = if (i + 1) % 64 = 0 then r.phase else s.phase
  fill : u.fill.val = (i + 1) % 64
  oidx : (i + 1) % 64 = 0 → r = .out → u.oidx = 0
  setting : u.setting = s.setting

section
variable {p : List Byte} {i j : Nat} {r : Ret} {s s' : State}

theorem Feeds.pushes (h : Feeds p i r s s') : Pushes i r s s' := ⟨⟨_, h.step⟩, h.fed.fill, h.patient.noReset⟩

/-- R131, R153: the last byte of a chunk starts its compression. -/
theorem Pushes.exists_start (h : Pushes i r s s') (hi : (i + 1) % 64 = 0) :
    ∃ u, Runs 1 s u ∧ u.phase = .sched ∧ u.t.val = 0 ∧ u.ret = r ∧ u.setting = s'.setting ∧ NoReset u := by
  obtain ⟨v, hstep⟩ := h.step
  have hfill := h.fill
  exact ⟨_, runs_one (hstep.trans (pushByte_of_last (by omega))), rfl, rfl, rfl, rfl, h.noReset⟩

/-- After its own step a byte has the steps of a compression only. -/
theorem Pushes.exists_during (h : Pushes i r s s') (h0 : 0 < j) (hj : j < byteSteps i) :
    (i + 1) % 64 = 0 ∧ ∃ u, Runs j s u ∧ Compressing u.phase = true ∧ compressionSteps u + 1 = j := by
  have hi : (i + 1) % 64 = 0 := by
    by_contra hne
    rw [byteSteps, if_neg hne] at hj
    omega
  rw [byteSteps, if_pos hi] at hj
  obtain ⟨v, hrun, hp, ht, -, -, hr⟩ := h.exists_start hi
  obtain ⟨k, rfl⟩ : ∃ k, j = 1 + k := Nat.exists_eq_add_of_le h0
  obtain ⟨u, hu⟩ := exists_compressionRun hp ht hr (k := k) (by omega)
  exact ⟨hi, u, runs_add hrun hu.run, hu.compressing, by rw [hu.steps, Nat.add_comm]⟩

/-- R131, R153: a byte's own step, and the 162 of the compression where it is the last of its chunk. -/
theorem Pushes.exists_pushed (h : Pushes i r s s') : ∃ u, Runs (byteSteps i) s u ∧ Pushed i r s' u := by
  by_cases hi : (i + 1) % 64 = 0
  · obtain ⟨v, hrun, hp, ht, hret, hset, hr⟩ := h.exists_start hi
    obtain ⟨u, hrun', hu⟩ := exists_compressed hp ht hr
    rw [byteSteps, if_pos hi]
    refine ⟨u, runs_add hrun hrun', ?_, ?_, fun _ ho => hu.oidx (hret.trans ho), hu.setting.trans hset⟩
    · rw [if_pos hi, hu.phase, hret]
    · rw [hu.fill, hi]
      rfl
  · obtain ⟨v, hstep⟩ := h.step
    have hfill := h.fill
    rw [byteSteps, if_neg hi]
    refine ⟨_, runs_one (hstep.trans (pushByte_of_room (by omega))), (if_neg hi).symm, ?_,
      fun h0 => absurd h0 hi, rfl⟩
    show s'.fill.val + 1 = _
    omega

end

/-! ### The padder up to OUT -/

/-- R150 to R152: the padder's instruction in a stage that `fill` allows is a padder step. -/
theorem exists_exec_padInstr {s : State} (hp : s.phase = .pad) (hf : s.fill.val < 64)
    (hlen : s.pstage = .len → 56 ≤ s.fill.val) : ∃ v, exec (padInstr s.pstage) s = padStep v s := by
  cases hst : s.pstage with
  | mark => exact ⟨_, exec_padmark hp hst⟩
  | zero => exact ⟨_, exec_padzero hp hst⟩
  | len => exact ⟨_, exec_padlen_of_lengthByte hp hst (hlen hst) (by omega)⟩

/-- R153, R154: the padder, after `l` bytes of message, is to write the byte at `i`; `ml` counts the message. -/
structure Padding (l : Nat) (ml : Length) (i : Nat) (s : State) : Prop where
  phase : s.phase = .pad
  pstage : s.pstage = padStageAt l i
  fill : s.fill.val = i % 64
  ml : s.ml = ml
  noReset : NoReset s

section
variable {l i : Nat} {ml : Length} {s : State}

theorem Padding.pushes (h : Padding l ml i s) (hi : i < 64 * chunkCount l) :
    Pushes i (padRet s) s { passInput false s with pstage := nextPStage s } := by
  have hfill := h.fill
  have hchunks := zeroCount_add l
  have hlen : s.pstage = .len → 56 ≤ s.fill.val := by
    rw [h.pstage, padStageAt_eq_len_iff]
    omega
  obtain ⟨v, hv⟩ := exists_exec_padInstr (s := passInput false s) h.phase (by show s.fill.val < 64; omega) hlen
  refine ⟨⟨v, ?_⟩, hfill, noReset_of_inputsAfter h.noReset rfl⟩
  rw [step_of_microOp (rst_of_noReset h.noReset) (microOp_of_pad h.phase)]
  exact hv

/-- R153: before the last byte, the padder goes on. -/
theorem Padding.exists_succ (h : Padding l ml i s) (hl : l ≤ i) (hi : i + 1 < 64 * chunkCount l) :
    ∃ u, Runs (byteSteps i) s u ∧ Padding l ml (i + 1) u := by
  obtain ⟨u, hrun, hu⟩ := (h.pushes (by omega)).exists_pushed
  have hchunks := zeroCount_add l
  have hphase : u.phase = .pad := by
    rw [hu.phase]
    split
    next hend =>
      have hne : s.pstage ≠ .len := by
        rw [h.pstage, ne_eq, padStageAt_eq_len_iff]
        omega
      rw [padRet_of_ne_len hne, Ret.phase]
    next => exact h.phase
  exact ⟨u, hrun, hphase, (congrArg Setting.pstage hu.setting).trans (nextPStage_eq h.pstage h.fill hl), hu.fill,
    (congrArg Setting.ml hu.setting).trans h.ml, noReset_of_runs h.noReset hrun⟩

/-- R154: from the marker on, the padder reaches each byte of the padding. -/
theorem Padding.exists_of_le (h : Padding l ml l s) (hl : l ≤ i) (hi : i < 64 * chunkCount l) :
    ∃ k u, feedSteps i = feedSteps l + k ∧ Runs k s u ∧ Padding l ml i u := by
  induction i, hl using Nat.le_induction with
  | base => exact ⟨0, s, rfl, runs_zero s, h⟩
  | succ i hl ih =>
    obtain ⟨k, u, hk, hrun, hu⟩ := ih (by omega)
    obtain ⟨v, hrun', hv⟩ := hu.exists_succ hl hi
    exact ⟨k + byteSteps i, v, by rw [feedSteps_succ, hk, Nat.add_assoc], runs_add hrun hrun', hv⟩

/-- R237: within the padding the engine is busy. -/
theorem Padding.exists_busy (h : Padding l ml l s) {k : Nat}
    (hk : feedSteps l + k < feedSteps (64 * chunkCount l)) : ∃ u, Runs k s u ∧ busy u = true := by
  obtain ⟨i, j, hij, hj⟩ := exists_feedSteps_add (feedSteps l + k)
  have hl : l < i + 1 := feedSteps_strictMono.lt_iff_lt.1 (by rw [feedSteps_succ]; omega)
  have hi : i < 64 * chunkCount l := feedSteps_strictMono.lt_iff_lt.1 (by omega)
  obtain ⟨k', u, hk', hrun, hu⟩ := h.exists_of_le (Nat.le_of_lt_succ hl) hi
  obtain rfl : k = k' + j := by omega
  rcases Nat.eq_zero_or_pos j with rfl | h0
  · exact ⟨u, hrun, (busy_iff u).2 (.inl hu.phase)⟩
  · obtain ⟨-, v, hrun', hv, -⟩ := (hu.pushes hi).exists_during h0 hj
    exact ⟨v, runs_add hrun hrun', busy_of_compressing hv⟩

/-- R154: the last byte of the length field leads to OUT. -/
theorem Padding.exists_out (h : Padding l ml l s) : ∃ k u, feedSteps (64 * chunkCount l) = feedSteps l + k ∧
    Runs k s u ∧ u.phase = .out ∧ u.oidx = 0 ∧ u.ml = ml := by
  have hchunks := zeroCount_add l
  obtain ⟨i, hi⟩ : ∃ i, i + 1 = 64 * chunkCount l := ⟨l + zeroCount l + 8, by omega⟩
  have hend : (i + 1) % 64 = 0 := by omega
  obtain ⟨k, v, hk, hrun, hv⟩ := h.exists_of_le (i := i) (by omega) (by omega)
  obtain ⟨u, hrun', hu⟩ := (hv.pushes (by omega)).exists_pushed
  have hret : padRet v = .out := padRet_of_len (hv.pstage.trans (padStageAt_of_len (by omega)))
  refine ⟨k + byteSteps i, u, ?_, runs_add hrun hrun', ?_, hu.oidx hend hret,
    (congrArg Setting.ml hu.setting).trans hv.ml⟩
  · rw [← hi, feedSteps_succ, hk, Nat.add_assoc]
  · rw [hu.phase, if_pos hend, hret, Ret.phase]

end

/-- R85: one chunk more where the length field does not fit. -/
theorem chunkCount_of_le {fill : Nat} (h : fill ≤ 63) : chunkCount fill = if fill ≤ 55 then 1 else 2 := by
  unfold chunkCount
  split <;> omega

/-- R154: the steps of the padding are those of its bytes. -/
theorem feedSteps_add_padSteps {fill : Nat} (h : fill ≤ 63) :
    feedSteps fill + padSteps fill = feedSteps (64 * chunkCount fill) := by
  have hchunks := zeroCount_add fill
  rw [padSteps, ← chunkCount_of_le h, feedSteps, feedSteps, Nat.mul_div_cancel_left _ (by decide)]
  omega

/-- Settles O47: the padder's steps are those of the bytes of the padding, the last of which leads to OUT. -/
theorem padderReachesOut : Obligations.PadderReachesOut := by
  refine ⟨fun s hp hst hf hr => ?_, fun fill hf => ?_, rfl⟩
  · have hpad : Padding s.fill.val s.ml s.fill.val s :=
      ⟨hp, hst.trans (padStageAt_of_marker _).symm, (Nat.mod_eq_of_lt (by omega)).symm, rfl, hr⟩
    have hsteps := feedSteps_add_padSteps hf
    obtain ⟨k, t, hk, hrun, hphase, hoidx, hml⟩ := hpad.exists_out
    obtain rfl : k = padSteps s.fill.val := by omega
    exact ⟨fun k hk => hpad.exists_busy (by omega), t, hrun, hphase, congrArg Fin.val hoidx,
      by simp [outValid, hphase], hml⟩
  · unfold padSteps zeroCount
    split <;> omega

end Sys2Proof.Machine
end

section
/-! SUPPORT. The steps of one host call (R125, R156): those of each byte of `pad(m)`, in which a compression starts with
the last byte of a chunk only. -/
namespace Sys2Proof.Machine

open Sys2Proof.Safety

/-! ### Where a compression starts -/

/-- R156: a compression starts. -/
abbrev CompressionStarts (s : State) : Prop := s.phase = .sched ∧ s.t.val = 0

theorem compressionStarts_iff {s : State} (h : Compressing s.phase = true) :
    CompressionStarts s ↔ compressionSteps s = 0 := by
  unfold CompressionStarts
  rcases compressing_cases h with hp | hp | hp | hp
  · rw [compressionSteps_of_sched hp]
    exact and_iff_right hp
  · simp [compressionSteps_of_binit hp, hp]
  · simp [compressionSteps_of_round hp, hp]
  · simp [compressionSteps_of_fold hp, hp]

/-- R131, R153: among the steps of a byte a compression starts after the first one, if the byte ends a chunk. -/
theorem Pushes.exists_starts_iff {i j : Nat} {r : Ret} {s s' : State} (h : Pushes i r s s') (hp : s.phase ≠ .sched)
    (hj : j < byteSteps i) : ∃ u, Runs j s u ∧ (CompressionStarts u ↔ (i + 1) % 64 = 0 ∧ j = 1) := by
  rcases Nat.eq_zero_or_pos j with rfl | h0
  · exact ⟨s, runs_zero s, iff_of_false (fun hs => hp hs.1) (by simp)⟩
  · obtain ⟨hi, u, hrun, hc, hsteps⟩ := h.exists_during h0 hj
    refine ⟨u, hrun, ?_⟩
    rw [compressionStarts_iff hc, and_iff_right hi]
    omega

/-! ### The steps to a byte and to a chunk -/

/-- The steps from INIT to the byte at `i` of a message of `l` bytes and its padding: INIT, FINAL if it has come, and
those of the bytes before. -/
def stepsToByte (l i : Nat) : Nat := 1 + (if i < l then 0 else 1) + feedSteps i

theorem stepsToByte_of_message {l i : Nat} (h : i < l) : stepsToByte l i = 1 + feedSteps i := by
  rw [stepsToByte, if_pos h]

theorem stepsToByte_of_padding {l i : Nat} (h : l ≤ i) : stepsToByte l i = 2 + feedSteps i := by
  rw [stepsToByte, if_neg (Nat.not_lt.2 h)]

/-- R125: a compression starts in the first step of the last byte of its chunk. -/
theorem stepsToChunk_eq (l n : Nat) : stepsToChunk l n = stepsToByte l (64 * n + 63) + 1 := by
  unfold stepsToChunk stepsToByte feedSteps
  split <;> split <;> omega

/-- R125: the entry to OUT comes when all bytes have passed. -/
theorem stepsToOut_eq (l : Nat) : stepsToOut l = stepsToByte l (64 * chunkCount l) := by
  have hchunks := zeroCount_add l
  rw [stepsToByte_of_padding (by omega), stepsToOut, feedSteps, Nat.mul_div_cancel_left _ (by decide)]
  omega

/-- The steps of a byte end before those of a later one begin. -/
theorem stepsToByte_add_le {l i i' : Nat} (h : i < i') : stepsToByte l i + byteSteps i ≤ stepsToByte l i' := by
  have hfeed : feedSteps (i + 1) ≤ feedSteps i' := feedSteps_strictMono.monotone h
  rw [feedSteps_succ] at hfeed
  unfold stepsToByte
  split <;> split <;> omega

/-- A step belongs to one byte only. -/
theorem stepsToByte_add_inj {l i i' j j' : Nat} (hj : j < byteSteps i) (hj' : j' < byteSteps i')
    (h : stepsToByte l i + j = stepsToByte l i' + j') : i = i' := by
  rcases Nat.lt_trichotomy i i' with hlt | heq | hgt
  · have := stepsToByte_add_le (l := l) hlt
    omega
  · exact heq
  · have := stepsToByte_add_le (l := l) hgt
    omega

/-- R156: the counted steps: those after which the compression of a chunk starts. -/
abbrev ChunkStep (l k : Nat) : Prop := ∃ n, n < chunkCount l ∧ k = stepsToChunk l n

theorem chunkStep_stepsToByte_add_iff {l i j : Nat} (hi : i < 64 * chunkCount l) (hj : j < byteSteps i) :
    ChunkStep l (stepsToByte l i + j) ↔ (i + 1) % 64 = 0 ∧ j = 1 := by
  constructor
  · rintro ⟨n, -, hk⟩
    rw [stepsToChunk_eq] at hk
    have hlast : 1 < byteSteps (64 * n + 63) := by
      rw [byteSteps, if_pos (by omega)]
      decide
    obtain rfl := stepsToByte_add_inj hj hlast hk
    omega
  · rintro ⟨hend, rfl⟩
    refine ⟨i / 64, by omega, ?_⟩
    rw [stepsToChunk_eq, show 64 * (i / 64) + 63 = i by omega]

theorem not_chunkStep_zero (l : Nat) : ¬ ChunkStep l 0 := by
  rintro ⟨n, -, hk⟩
  rw [stepsToChunk_eq] at hk
  omega

/-- R132: no compression starts where FINAL comes. -/
theorem not_chunkStep_final (l : Nat) : ¬ ChunkStep l (1 + feedSteps l) := by
  rintro ⟨n, -, hk⟩
  unfold stepsToChunk feedSteps at hk
  split at hk <;> omega

theorem not_chunkStep_stepsToOut (l : Nat) : ¬ ChunkStep l (stepsToOut l) := by
  rintro ⟨n, hn, hk⟩
  have hbyte := stepsToByte_add_le (l := l) (show 64 * n + 63 < 64 * chunkCount l by omega)
  rw [stepsToOut_eq, stepsToChunk_eq] at hk
  rw [byteSteps, if_pos (by omega)] at hbyte
  omega

/-- R125: up to the entry to OUT every step but INIT and FINAL belongs to a byte. -/
theorem step_cases_upTo_out {l k : Nat} (hk : k ≤ stepsToOut l) :
    k = 0 ∨ k = 1 + feedSteps l ∨ k = stepsToOut l ∨
      ∃ i j, i < 64 * chunkCount l ∧ j < byteSteps i ∧ k = stepsToByte l i + j := by
  have hchunks := zeroCount_add l
  rcases Nat.eq_or_lt_of_le hk with hout | hlt
  · exact .inr (.inr (.inl hout))
  rcases Nat.eq_zero_or_pos k with h0 | h0
  · exact .inl h0
  obtain ⟨n, rfl⟩ := Nat.exists_eq_add_of_le h0
  rcases Nat.lt_trichotomy n (feedSteps l) with hn | rfl | hn
  · obtain ⟨i, j, rfl, hj⟩ := exists_feedSteps_add n
    have hi : i < l := feedSteps_strictMono.lt_iff_lt.1 (by omega)
    exact .inr (.inr (.inr ⟨i, j, by omega, hj, by rw [stepsToByte_of_message hi]; omega⟩))
  · exact .inr (.inl rfl)
  · obtain ⟨n', rfl⟩ : ∃ n', n = 1 + n' := Nat.exists_eq_add_of_le (by omega)
    obtain ⟨i, j, rfl, hj⟩ := exists_feedSteps_add n'
    have hl : l < i + 1 := feedSteps_strictMono.lt_iff_lt.1 (by rw [feedSteps_succ]; omega)
    rw [stepsToOut_eq, stepsToByte_of_padding (by omega)] at hlt
    have hi : i < 64 * chunkCount l := feedSteps_strictMono.lt_iff_lt.1 (by omega)
    exact .inr (.inr (.inr ⟨i, j, hi, hj, by rw [stepsToByte_of_padding (by omega)]; omega⟩))

/-! ### The statement -/

/-- R125: the counted steps lead to each byte of `pad(m)`, which DATA or the padder writes. -/
theorem exists_pushes {m : List Byte} {after : List Drive} {s : State} {i : Nat} (ha : Accepting s)
    (hin : s.inputs = script (messageLines m) ++ after) (hp : Patient s.inputs) (hi : i < 64 * chunkCount m.length) :
    ∃ u r s', Runs (stepsToByte m.length i) s u ∧ Pushes i r u s' ∧ u.phase ≠ .sched := by
  rcases Nat.lt_or_ge i m.length with hl | hl
  · obtain ⟨u, hrun, hu⟩ := exists_inMessage ha hin hp (Nat.le_of_lt hl)
    rw [stepsToByte_of_message hl]
    exact ⟨u, _, _, hrun, (hu.feeds hl).pushes, by rw [hu.phase]; decide⟩
  · obtain ⟨u, hrun, hu⟩ := exists_inPadding ha hin hp hl hi
    rw [stepsToByte_of_padding hl]
    exact ⟨u, _, _, hrun, (hu.feeds hl hi).pushes, by rw [hu.phase]; decide⟩

/-- Outside SCHED no compression starts, and at a step that is not counted none should. -/
theorem exists_starts_iff_of_neither {l k : Nat} {s u : State} (hrun : Runs k s u) (hp : u.phase ≠ .sched)
    (hk : ¬ ChunkStep l k) : ∃ u, Runs k s u ∧ (CompressionStarts u ↔ ChunkStep l k) :=
  ⟨u, hrun, iff_of_false (fun hs => hp hs.1) hk⟩

/-- Settles O55: INIT, FINAL and the entry to OUT start no compression, and of the steps of a byte one does, where it
is the last byte of a chunk. -/
theorem compressionsAreTheChunks : Obligations.CompressionsAreTheChunks := by
  intro m s k ha hin hk
  have hpat : Patient s.inputs := hin ▸ patient_messageLines m
  rw [← List.append_nil (script _)] at hin
  rcases step_cases_upTo_out hk with rfl | rfl | rfl | ⟨i, j, hi, hj, rfl⟩
  · exact exists_starts_iff_of_neither (runs_zero s) (by rcases ha with ha | ha | ha <;> simp [ha])
      (not_chunkStep_zero _)
  · obtain ⟨u, hrun, hu⟩ := exists_inMessage ha hin hpat (Nat.le_refl m.length)
    exact exists_starts_iff_of_neither hrun (by simp [hu.phase]) (not_chunkStep_final _)
  · obtain ⟨u, hrun, hphase, -⟩ := exists_out ha hin hpat
    exact exists_starts_iff_of_neither hrun (by simp [hphase]) (not_chunkStep_stepsToOut _)
  · obtain ⟨u, r, s', hrun, hu, hp⟩ := exists_pushes ha hin hpat hi
    obtain ⟨v, hrun', hv⟩ := hu.exists_starts_iff hp hj
    exact ⟨v, runs_add hrun hrun', hv.trans (chunkStep_stepsToByte_add_iff hi hj).symm⟩

end Sys2Proof.Machine
end

section
/-! SUPPORT. The schedule by its steps (R160, R161): the whole effect of each, and the four taps of a derived word
(R163). -/
namespace Sys2Proof.Machine

/-! ### One schedule step -/

/-- R160: WLOAD runs where it is selected. -/
theorem exec_wload {s : State} (hp : s.phase = .sched) (ht : s.t.val < 16) :
    exec .wload s = .next (advanceT .binit { s with w := s.w.set s.t.val (chunkWord s.chunk s.t.val ht) }) :=
  dif_pos ⟨hp, ht⟩

/-- R161: WEXP runs where it is selected. -/
theorem exec_wexp {s : State} (hp : s.phase = .sched) (ht : 16 ≤ s.t.val) :
    exec .wexp s = .next (advanceT .binit { s with w := s.w.set s.t.val (expandWord s.w s.t) }) :=
  if_pos ⟨hp, ht⟩

/-- R161: rotated left by 1, bit 31 comes below the other 31 bits. -/
theorem rotl_one (x : Word) : rotl x 1 = x.extractLsb' 0 31 ++ x.extractLsb' 31 1 := by
  refine BitVec.eq_of_getLsbD_eq fun i hi => ?_
  rw [rotl_getLsbD x 1 i hi, BitVec.getLsbD_append, BitVec.getLsbD_extractLsb', BitVec.getLsbD_extractLsb']
  rcases Nat.eq_zero_or_pos i with rfl | hpos
  · rfl
  · have hbelow : (i + 31) % 32 = i - 1 := by omega
    have hlt : i - 1 < 31 := by omega
    simp [hbelow, hlt, Nat.not_lt.2 hpos]

/-! ### The four taps -/

/-- R122: rotating on to 32 places gives the word back, so no two words rotate to the same one. -/
theorem rotl_one_injective {x y : Word} (h : rotl x 1 = rotl y 1) : x = y :=
  calc x = rotl (rotl x 1) 31 := ((rotl_rotl x 1 31).trans (rotl_zero x)).symm
    _ = rotl (rotl y 1) 31 := by rw [h]
    _ = y := (rotl_rotl y 1 31).trans (rotl_zero y)

theorem expandWord_eq_iff {w w' : Vector Word 80} {i : Fin 80} : expandWord w i = expandWord w' i ↔
    w[i.val - 3] ^^^ w[i.val - 8] ^^^ w[i.val - 14] ^^^ w[i.val - 16] =
      w'[i.val - 3] ^^^ w'[i.val - 8] ^^^ w'[i.val - 14] ^^^ w'[i.val - 16] :=
  ⟨rotl_one_injective, congrArg (rotl · 1)⟩

/-- R163: where two schedules differ in one tap, the other three cancel and the difference stays. -/
theorem expandWord_ne_of_tap_ne {w w' : Vector Word 80} {i k : Fin 80} (hi : 16 ≤ i.val)
    (hk : k.val + 3 = i.val ∨ k.val + 8 = i.val ∨ k.val + 14 = i.val ∨ k.val + 16 = i.val)
    (hother : ∀ n : Fin 80, n ≠ k → w[n] = w'[n]) (hne : w[k] ≠ w'[k]) : expandWord w i ≠ expandWord w' i := by
  have hsame (n : Nat) (hn : i.val - n ≠ k.val) : w[i.val - n] = w'[i.val - n] :=
    hother ⟨i.val - n, by omega⟩ fun h => hn (congrArg Fin.val h)
  have hdiff (n : Nat) (hn : i.val - n = k.val) : w[i.val - n] ≠ w'[i.val - n] := by
    simpa only [hn, Fin.getElem_fin] using hne
  rw [Ne, expandWord_eq_iff]
  rcases hk with hk | hk | hk | hk
  · simpa [hsame 8 (by omega), hsame 14 (by omega), hsame 16 (by omega)] using hdiff 3 (by omega)
  · simpa [hsame 3 (by omega), hsame 14 (by omega), hsame 16 (by omega)] using hdiff 8 (by omega)
  · simpa [hsame 3 (by omega), hsame 8 (by omega), hsame 16 (by omega)] using hdiff 14 (by omega)
  · simpa [hsame 3 (by omega), hsame 8 (by omega), hsame 14 (by omega)] using hdiff 16 (by omega)

/-! ### The statements -/

/-- Settles O24: the rotation and the three equal taps cancel, and WEXP writes the derived word. -/
theorem scheduleWindow : Obligations.ScheduleWindow := by
  refine ⟨fun w w' i _ h3 h8 h14 h16 => ?_, fun _ _ _ _ => expandWord_ne_of_tap_ne, fun s hp ht => ?_⟩
  · rw [expandWord_eq_iff, h3, h8, h14, h16]
  · exact ⟨_, exec_wexp hp ht, rfl⟩

/-- Settles O21: the word of the chunk is written, and `t` is not at its last value. -/
theorem wloadLoadsChunkWord : Obligations.WloadLoadsChunkWord := by
  intro s ht hp
  refine (exec_wload hp ht).trans (congrArg Host.Outcome.next (advanceT_of_lt ?_))
  exact Nat.lt_trans ht (by decide)

/-- Settles O22: the derived word by its slices, and `t` at its last value and before it. -/
theorem wexpDerivesWord : Obligations.WexpDerivesWord := by
  intro s hp ht x u
  have hexec : exec .wexp s = .next (advanceT .binit u) := by rw [exec_wexp hp ht, expandWord, rotl_one]
  exact ⟨fun h79 => by rw [hexec, advanceT_of_last (s := u) h79],
    fun hlt => by rw [hexec, advanceT_of_lt (s := u) hlt]⟩

end Sys2Proof.Machine
end

section
/-! SUPPORT. The updater by its steps (R170 to R177): the copy of `h`, a round at the function and constant of its
stage, and the sums of FOLD. -/
namespace Sys2Proof.Machine

open Sys2Proof.Safety

/-! ### One round -/

/-- R116, R121, R175: a round writes the five round variables and advances `t`; its sum grouped from the left. -/
theorem afterRound_roundStep (f : Word → Word → Word → Word) (k : Word) (s : State) :
    AfterRound (f s.b s.c s.d) k s (roundStep f k s) := by
  unfold AfterRound
  intro u
  have hround : roundStep f k s = advanceT .fold u := by
    simp only [roundStep_eq, State.setVars, roundWith, State.vars, u, BitVec.add_assoc]
  exact ⟨fun h79 => hround.trans (advanceT_of_last (s := u) h79),
    fun hlt => hround.trans (advanceT_of_lt (s := u) hlt)⟩

/-- R171 to R175: the round instruction of a stage runs at each of its twenty indices. -/
theorem exists_afterRound {n : Fin 4} {s : State} (hp : s.phase = .round) (hlo : 20 * n.val ≤ s.t.val)
    (hhi : s.t.val ≤ 20 * n.val + 19) :
    ∃ t, exec (roundInstr n) s = .next t ∧ AfterRound (stageFn n s.b s.c s.d) K[n.val] s t :=
  ⟨_, exec_roundInstr hp (stage_eq_iff.2 ⟨hlo, hhi⟩), afterRound_roundStep _ _ s⟩

/-! ### The statements -/

/-- Settles O25: the round variables of `h` are its five words. -/
theorem binitCopiesRegisters : Obligations.BinitCopiesRegisters := fun _ hp => exec_binit hp

/-- Settles O26: the indices 0 to 19 are those of stage 0. -/
theorem rnd0Round : Obligations.Rnd0Round := fun _ hp hhi =>
  exists_afterRound (n := 0) hp (Nat.zero_le _) hhi

/-- Settles O27: the indices 20 to 39 are those of stage 1. -/
theorem rnd1Round : Obligations.Rnd1Round := fun _ hp hlo hhi =>
  exists_afterRound (n := 1) hp hlo hhi

/-- Settles O28: the indices 40 to 59 are those of stage 2. -/
theorem rnd2Round : Obligations.Rnd2Round := fun _ hp hlo hhi =>
  exists_afterRound (n := 2) hp hlo hhi

/-- Settles O29: the indices from 60 on are those of stage 3. -/
theorem rnd3Round : Obligations.Rnd3Round := fun s hp hlo =>
  exists_afterRound (n := 3) hp hlo (Nat.le_of_lt_succ s.t.isLt)

/-- Settles O30: FOLD enters the phase `ret` names, and only OUT starts the digest at byte 0. -/
theorem foldAddsRoundVariables : Obligations.FoldAddsRoundVariables := by
  intro s hp t
  refine ⟨fun hret => ?_, fun hret => ?_, fun hret => ?_⟩
  all_goals
    rw [exec_fold hp, foldOidx, hret]
    rfl

end Sys2Proof.Machine
end

section
/-! SUPPORT. The serializer (R190 to R194): the value of `out_data` in each phase, TAKE by its two cases, and the edge
on which the host does nothing. -/
namespace Sys2Proof.Machine

/-! ### The offered byte -/

/-- R34: `out_valid` is 1 in OUT alone. -/
theorem outValid_eq_true_iff {s : State} : outValid s = true ↔ s.phase = .out := by simp [outValid]

theorem outValid_eq_false_iff {s : State} : outValid s = false ↔ s.phase ≠ .out := by simp [outValid]

/-- R194: outside OUT the port shows no byte. -/
theorem outData_of_ne_out {s : State} (hp : s.phase ≠ .out) : outData s = 0x00#8 :=
  if_neg (mt outValid_eq_true_iff.1 hp)

/-- R193: the levels the host drives do not show on `out_data`. -/
@[simp] theorem passInput_outData (acted : Bool) (s : State) : outData (passInput acted s) = outData s := rfl

/-! ### TAKE -/

theorem advanceOidx_of_lt {s : State} (h : s.oidx.val < 19) :
    advanceOidx s = { s with oidx := ⟨s.oidx.val + 1, Nat.succ_lt_succ h⟩ } := by
  simp [advanceOidx, nextOidx_of_lt h, h]

theorem advanceOidx_of_last {s : State} (h : s.oidx.val = 19) : advanceOidx s = { s with phase := .idle } := by
  simp [advanceOidx, nextOidx, h]

theorem exec_take_of_out {s : State} (hp : s.phase = .out) : exec .take s = .next (advanceOidx (deliver s)) :=
  if_pos (outValid_eq_true_iff.2 hp)

theorem exec_take_of_ne_out {s : State} (hp : s.phase ≠ .out) : exec .take s = .next s :=
  if_neg (mt outValid_eq_true_iff.1 hp)

/-! ### The host waits -/

/-- R193: the edge of a ready engine on which the host neither resets, nor sends a command, nor takes. -/
theorem step_of_waiting {s : State} (hc : cmdReady s = true) (hr : s.pins.rst = false) (hv : s.pins.cmdValid = false)
    (ho : s.pins.outReady = false) : step s = .next (passInput false s) := by
  have ht : pinEvent s ≠ some .take := by simp [ho]
  rw [step_of_ready hr hc, hostEdge_of_waiting ht hv]

/-! ### The statements -/

/-- Settles O31: in OUT the port shows `digestByte`, whose byte `4i + j` is byte `j` of `h[i]`. -/
theorem outDataIsDigestByte : Obligations.OutDataIsDigestByte := by
  refine fun s => ⟨fun hp => ⟨outValid_eq_true_iff.2 hp, fun i j ho => ?_⟩,
    fun hp => ⟨outValid_eq_false_iff.2 hp, outData_of_ne_out hp⟩⟩
  have hidx : s.oidx = ⟨4 * i.val + j.val, by omega⟩ := Fin.ext ho
  rw [outData_of_out hp, hidx, digestByte_add, byte32]

/-- Settles O32: the byte is delivered before `oidx` advances, and the last one leads to IDLE. -/
theorem takeDeliversByte : Obligations.TakeDeliversByte := by
  refine ⟨fun s hp => ?_, fun s hp => exec_take_of_ne_out hp⟩
  rw [exec_take_of_out hp]
  exact ⟨fun hlast => congrArg Host.Outcome.next (advanceOidx_of_last (s := deliver s) hlast),
    fun hlt => congrArg Host.Outcome.next (advanceOidx_of_lt (s := deliver s) hlt)⟩

/-- Settles O33: a waiting edge changes nothing but what the host drives. -/
theorem outDataStable : Obligations.OutDataStable := by
  intro s hp hr hv ho
  have hc : cmdReady s = true := cmdReady_of_outValid (outValid_eq_true_iff.2 hp)
  exact ⟨passInput false s, step_of_waiting hc hr hv ho, rfl, rfl, hp, passInput_outData false s⟩

end Sys2Proof.Machine
end

section
/-! SUPPORT. The exceptions (R200 to R210): the priority within one command transfer, a take and a command on the same
edge, and that a state with the invariant of R39 meets no stop of the model. -/
namespace Sys2Proof.Machine

open Sys2Proof.Safety

/-! ### A command word out of sequence -/

/-- R137, R202: in IDLE and OUT every word but INIT's raises a fault, whatever its cause. -/
theorem transfer_of_outOfSequence {s : State} {w : CmdWord} (hp : s.phase = .idle ∨ s.phase = .out)
    (hw : w ≠ 0x000#10) : ∃ code, code ≠ 0 ∧ transfer w s = .next (raiseFault code s) := by
  cases hd : decode (.cmd w) with
  | error r =>
    rw [transfer_of_error hd]
    exact ⟨illegalCmd, by decide, acceptCommand_of_accepting (hp.imp_right .inr)⟩
  | ok i =>
    rw [transfer_of_ok hd]
    rcases command_of_decode hd with rfl | ⟨b, rfl⟩ | rfl
    · exact absurd (decode_cmd_eq_init_iff.1 hd) hw
    · exact ⟨seqData, by decide, exec_data_of_outOfSequence hp b⟩
    · exact ⟨seqFinal, by decide, exec_final_of_outOfSequence hp⟩

/-! ### A take leaves the engine where every command but INIT is out of sequence -/

theorem advanceOidx_phase_of_out {s : State} (hp : s.phase = .out) :
    (advanceOidx s).phase = .idle ∨ (advanceOidx s).phase = .out := by
  rcases advanceOidx_cases s with ⟨_, h⟩ | ⟨_, h⟩
  · exact .inr (by rw [h, hp])
  · exact .inl (by rw [h])

/-! ### What answers a next state -/

theorem exists_pushByte (v : Byte) (r : Ret) {s : State} (hf : s.fill.val < 64) : ∃ t, pushByte v r s = .next t := by
  rcases Nat.lt_or_eq_of_le (Nat.succ_le_of_lt hf) with hroom | hlast
  · exact ⟨_, pushByte_of_room hroom⟩
  · exact ⟨_, pushByte_of_last hlast⟩

theorem exists_acceptCommand {k : State → Result} {s : State} (hk : Accepting s → ∃ t, k s = .next t) :
    ∃ t, acceptCommand k s = .next t := by
  rcases acceptCommand_cases k s with ⟨hw, -⟩ | ⟨he, ha⟩
  · exact ⟨s, hw⟩
  · rw [he]
    exact hk ha

/-- R59: in ABSORB `fill` counts the bytes of the message modulo 64, so DATA has a byte of CHUNK to write. -/
theorem fill_lt_of_absorb {s : State} (hs : CtlInv s) (hp : s.phase = .absorb) : s.fill.val < 64 := by
  obtain ⟨-, -, hfill⟩ := (ctlInv_iff_of_absorb hp).1 hs
  rw [hfill]
  exact (s.ml.extractLsb' 3 6).isLt

/-- R209: a word transfers to a next state. -/
theorem exists_transfer (w : CmdWord) {s : State} (hs : CtlInv s) : ∃ t, transfer w s = .next t := by
  rcases transfer_cases w s with ⟨i, hi, ht⟩ | ⟨-, ht⟩ <;> rw [ht]
  · unfold exec
    rcases command_of_decode (decode?_eq_some_iff.1 hi) with rfl | ⟨b, rfl⟩ | rfl
    · exact exists_acceptCommand fun _ => ⟨_, rfl⟩
    · refine exists_acceptCommand fun _ => ?_
      split_ifs with hp
      · have hf : s.fill.val < 64 := fill_lt_of_absorb hs hp
        exact exists_pushByte b .absorb hf
      · exact ⟨_, rfl⟩
    · refine exists_acceptCommand fun _ => ?_
      split_ifs <;> exact ⟨_, rfl⟩
  · exact exists_acceptCommand fun _ => ⟨_, rfl⟩

theorem exists_take (s : State) : ∃ t, exec .take s = .next t := by
  by_cases hp : s.phase = .out
  · exact ⟨_, exec_take_of_out hp⟩
  · exact ⟨_, exec_take_of_ne_out hp⟩

/-- R210: the command acts on the state the take left, which has the invariant too. -/
theorem exists_hostEdge {s : State} (hs : CtlInv s) : ∃ t, hostEdge s = .next t := by
  have hpass : CtlInv (passInput true s) := ctlInv_passInput true hs
  by_cases ht : pinEvent s = some .take <;> cases hv : s.pins.cmdValid
  · rw [hostEdge_of_take ht hv]
    exact exists_take _
  · obtain ⟨u, hu⟩ := exists_take (passInput true s)
    rw [hostEdge_of_take_and_command ht hv, hu, andThen_next]
    exact exists_transfer _ ((effect_of_exec hu).keeps_ctlInv hpass)
  · exact ⟨_, hostEdge_of_waiting ht hv⟩
  · rw [hostEdge_of_command ht hv]
    exact exists_transfer _ hpass

/-- R92, R59: a busy engine's micro-operation finds its phase, and in PAD a byte of CHUNK to write. -/
theorem exists_exec_microOp {s : State} (hs : CtlInv s) (hb : busy s = true) :
    ∃ i t, microOp s = some i ∧ exec i s = .next t := by
  rcases (busy_iff s).1 hb with hp | hp | hp | hp | hp
  · obtain ⟨-, -, hfill, hlen, -⟩ := (ctlInv_iff_of_pad hp).1 hs
    have hf : s.fill.val < 64 := Nat.lt_succ_of_le hfill
    obtain ⟨v, hv⟩ := exists_exec_padInstr hp hf hlen
    obtain ⟨t, ht⟩ := exists_pushByte v (padRet s) (s := { s with pstage := nextPStage s }) hf
    exact ⟨_, t, microOp_of_pad hp, hv.trans ht⟩
  · exact ⟨_, _, microOp_of_sched hp, exec_schedInstr hp⟩
  · exact ⟨_, _, microOp_of_binit hp, exec_binit hp⟩
  · exact ⟨_, _, microOp_of_round hp, exec_roundInstr hp rfl⟩
  · exact ⟨_, _, microOp_of_fold hp, exec_fold hp⟩

/-! ### The statements -/

/-- Settles O16: the four cases of R209 by phase and by what the word decodes to. -/
theorem transferPriority : Obligations.TransferPriority := by
  intro w s hc
  by_cases hf : s.phase = .fault
  · rw [if_pos hf, transfer_of_fault hf]
  rw [if_neg hf]
  cases hd : decode (.cmd w) with
  | error r => exact (transfer_of_error hd s).trans (execIllegalWord_of_ready hc hf)
  | ok i =>
    rw [transfer_of_ok hd]
    rcases command_of_decode hd with rfl | ⟨b, rfl⟩ | rfl
    · rfl
    · exact (ite_eq_right_iff.2 fun hp => (exec_data_of_outOfSequence hp b).symm).symm
    · exact (ite_eq_right_iff.2 fun hp => (exec_final_of_outOfSequence hp).symm).symm

/-- Settles O34: the take leaves IDLE or OUT, where INIT restarts and every other word faults. -/
theorem takeAndCommandSameEdge : Obligations.TakeAndCommandSameEdge := by
  intro s hp hr hv ho
  have hov : outValid s = true := outValid_eq_true_iff.2 hp
  have ht : pinEvent s = some .take := (pinEvent_eq_take_iff s).2 ⟨hr, hov, ho⟩
  have hpass : passInput true s = { s with inputs := s.inputs.drop 1 } := by
    rw [passInput, inputsAfter_true, List.drop_one]
  have htake := exec_take_of_out (s := passInput true s) hp
  have hphase := advanceOidx_phase_of_out (s := deliver (passInput true s)) hp
  have hstep : step s = transfer s.pins.cmd (advanceOidx (deliver (passInput true s))) := by
    rw [step_of_ready hr (cmdReady_of_outValid hov), hostEdge_of_take_and_command ht hv, htake, andThen_next]
  refine ⟨_, hpass ▸ htake, rfl, fun hlast => ?last, hstep, fun hw => ?init, fun hw => ?other⟩
  case last => rw [advanceOidx_of_last (s := deliver (passInput true s)) hlast]
  case init => rw [hstep, transfer_of_ok (decode_cmd_eq_init_iff.2 hw), exec_init (hphase.imp_right .inr)]
  case other =>
    rw [hstep]
    exact transfer_of_outOfSequence hphase hw

/-- Settles O45: reset always answers; under the invariant a busy engine's micro-operation does, and so does the
host's turn. -/
theorem engineNeverStops : Obligations.EngineNeverStops := by
  intro s hs
  cases hr : s.pins.rst with
  | true => exact ⟨_, step_of_rst hr⟩
  | false =>
    cases hb : busy s with
    | true =>
      obtain ⟨i, t, hi, ht⟩ := exists_exec_microOp (ctlInv_passInput false hs) hb
      exact ⟨t, (step_of_microOp hr hi).trans ht⟩
    | false =>
      rw [step_of_ready hr (by simpa [busy] using hb)]
      exact exists_hostEdge hs

end Sys2Proof.Machine
end

section
/-! SUPPORT. Reset and the ports it leaves (R230, R231): the statements of spec/70_reset_and_hazards.md. -/
namespace Sys2Proof.Machine

/-- R230: RESET answers in every state. -/
theorem exec_reset (s : State) : exec .reset s = .next (leaveToIdle s) := rfl

/-- Log 4: an edge at which the host has acted passes one entry, held or not. -/
theorem passInput_true (s : State) : passInput true s = { s with inputs := s.inputs.drop 1 } := by
  rw [passInput, inputsAfter_true, List.drop_one]

/-- R34, R194: the ports of an engine in IDLE, by its error elements. -/
theorem outputs_of_idle {s : State} (hp : s.phase = .idle) :
    outputs s = ⟨true, false, 0x00#8, s.err, s.errCode⟩ := by
  have hout : s.phase ≠ .out := by simp [hp]
  rw [outputs, cmdReady_of_accepting (.inl hp), outValid_eq_false_iff.2 hout, outData_of_ne_out hout]

/-! ### The statements -/

/-- Settles O35: RESET is the exit to IDLE, and a step with `rst = 1` takes it after the host's entry has passed. -/
theorem resetWritesThree : Obligations.ResetWritesThree := by
  refine ⟨exec_reset, fun s hr => ?_⟩
  rw [step_of_rst hr, exec_reset, passInput_true]
  rfl

/-- Settles O36: the reset state and every state RESET leaves are in IDLE without an error, and that fixes the ports. -/
theorem portsAfterReset : Obligations.PortsAfterReset := by
  intro t ht
  obtain ⟨hp, herr, hcode⟩ : t.phase = .idle ∧ t.err = false ∧ t.errCode = 0 := by
    rcases ht with rfl | ⟨s, hs⟩
    · exact ⟨rfl, rfl, rfl⟩
    · obtain rfl : leaveToIdle s = t := Host.Outcome.next.inj ((exec_reset s).symm.trans hs)
      exact ⟨rfl, rfl, rfl⟩
  refine ⟨hp, microOp_of_ready (cmdReady_of_accepting (.inl hp)), ?_⟩
  rw [outputs_of_idle hp, herr, hcode]

end Sys2Proof.Machine
end
